-- ==== Sys2Proof/Word.lean ====
section
/-! DEFINITION. The word types of the machine: bytes and 64-bit addresses (R6, R30). -/

namespace Sys2Proof

/-- One byte of memory or of the instruction stream (R30: byte-addressed, 8-bit bytes). -/
abbrev Byte := BitVec 8

/-- An address or an instruction pointer: 64 bits; in M32 only the low 32 bits are in use (R25, R30). -/
abbrev Addr := BitVec 64

end Sys2Proof
end

