-- ==== Sys2Proof/Config.lean ====
section
/-! DEFINITION. What the implementation fixes (R5): the operating modes, the linear-address width, the
widths `MAXVL` and `KW`, and the launch values that the spec leaves unspecified at reset (R33) and the
assumption log names. -/

namespace Sys2Proof

/-- R5, D2: the operating mode. `m64` is 64-bit mode, `m32` is 32-bit protected or compatibility mode.
No in-scope instruction changes it. -/
inductive Mode where
  | m64
  | m32
deriving DecidableEq, Repr

/-- R65: the width of a canonical linear address, a parameter of the model; 48 bits by default
(D5), 57 bits with 5-level paging. -/
inductive LinearWidth where
  | w48
  | w57
deriving DecidableEq, Repr

namespace Config

/-- R5, D1: the width in bits of a full vector register. -/
abbrev maxvl : Nat := 512

/-- R5, D21: the width in bits of an opmask register. DESIGN CHOICE (log 7): of the two
values 16 and 64 the model takes 64. Unsafe only for a statement about bits 63:16 of an opmask. -/
abbrev kw : Nat := 64

/-- The mode a run starts in. DESIGN CHOICE (log 1): the spec gives no initial mode (R33); its
test vectors run in M64 unless they say otherwise. Unsafe. -/
def resetMode : Mode := .m64

/-- The address a run starts at. DESIGN CHOICE (log 1): the spec gives no reset vector (R33);
its programs are placed at 0x1000. Unsafe. -/
def resetPc : Addr := 0x1000#64

/-- The length of the longest instruction the decoder looks at: R90 allows at most 15 bytes. -/
def maxInstrBytes : Nat := 15

end Config

end Sys2Proof
end

