-- ==== Sys2Proof/Syntax.lean ====
section
/-! DEFINITION. The abstract form of the ten instructions (R3, R70 to R90): one constructor of `Instr` per row
of the opcode table, over the parts their encodings are made of. Every field holds the value the spec's
pseudocode uses: fields stored complemented in a VEX or EVEX byte stand here uncomplemented. -/

namespace Sys2Proof

/-- R32: the six segment registers. -/
inductive Seg where
  | es
  | cs
  | ss
  | ds
  | fs
  | gs
deriving DecidableEq, Repr

/-- R72: the legacy bytes that may stand before an opcode. -/
inductive LegacyPrefix where
  /-- `26 2E 36 3E 64 65`: a segment override. -/
  | seg (g : Seg)
  /-- `67`: the address-size override. -/
  | addrSize
  /-- `66`: the operand-size override; on the legacy family it selects row 2 (R73). -/
  | opSize
  /-- `F2`. -/
  | repne
  /-- `F3`. -/
  | rep
  /-- `F0`. -/
  | lock
deriving DecidableEq, Repr

/-- R74: the REX byte `0100WRXB`. -/
structure Rex where
  w : Bool
  r : Bool
  x : Bool
  b : Bool
deriving DecidableEq, Repr

/-- R75, R80: the displacement of a memory operand that has a base register (mod 00, 01, 10). -/
inductive Disp where
  | none
  | d8 (d : BitVec 8)
  | d32 (d : BitVec 32)
deriving DecidableEq, Repr

/-- R75, R78, R79: what ModRM.mod, ModRM.rm, the SIB byte and the displacement say of the last operand. -/
inductive Rm where
  /-- mod = 11: a register, by its low three bits. -/
  | reg (rm : BitVec 3)
  /-- mod ≠ 11, no SIB byte: base register `rm` plus a displacement. -/
  | base (rm : BitVec 3) (disp : Disp)
  /-- mod = 00, rm = 101: a 32-bit displacement alone; RIP-relative in M64 (R81). -/
  | dispOnly (d : BitVec 32)
  /-- a SIB byte with a base register. -/
  | sib (scale : BitVec 2) (index base : BitVec 3) (disp : Disp)
  /-- a SIB byte with mod = 00 and base = 101: no base register, a 32-bit displacement. -/
  | sibNoBase (scale : BitVec 2) (index : BitVec 3) (d : BitVec 32)
deriving DecidableEq, Repr

/-- R75: the low three bits of the register that is the last operand, when mod = 11. -/
def Rm.asReg : Rm → Option (BitVec 3)
  | .reg rm => some rm
  | .base _ _ => none
  | .dispOnly _ => none
  | .sib _ _ _ _ => none
  | .sibNoBase _ _ _ => none

/-- R50: the last operand is in memory exactly when mod ≠ 11. -/
def Rm.isMem (r : Rm) : Bool := r.asReg.isNone

/-- R70, R76 (Op/En A): the parts of a legacy form. -/
structure Legacy where
  prefixes : List LegacyPrefix
  rex : Option Rex
  reg : BitVec 3
  rm : Rm
deriving DecidableEq, Repr

/-- R82, R83: the two VEX forms. The two-byte form implies X = B = W = 0. `w` is ignored (WIG, R84). -/
inductive VexForm where
  | two
  | three (x b w : Bool)
deriving DecidableEq, Repr

/-- R70, R76 (Op/En B), R82 to R84: the parts of a VEX form. -/
structure Vex where
  prefixes : List LegacyPrefix
  form : VexForm
  r : Bool
  vvvv : BitVec 4
  reg : BitVec 3
  rm : Rm
deriving DecidableEq, Repr

/-- R70, R76 (Op/En C), R85 to R87: the parts of an EVEX form (`r'` and `v'` are named `r2` and `v2`). -/
structure Evex where
  prefixes : List LegacyPrefix
  r : Bool
  x : Bool
  b : Bool
  r2 : Bool
  vvvv : BitVec 4
  v2 : Bool
  /-- EVEX.z: zeroing-masking (`true`) or merging-masking (`false`). -/
  z : Bool
  /-- EVEX.b: broadcast, with a memory operand. -/
  bcast : Bool
  /-- EVEX.aaa: `000` is no writemask, `n ≠ 0` names `K[n]`. -/
  aaa : BitVec 3
  reg : BitVec 3
  rm : Rm
deriving DecidableEq, Repr

/-- R3: the ten instructions, one constructor per row of the opcode table, in its order. -/
inductive Instr where
  /-- row 1, `POR mm, mm/m64` (R110). -/
  | porMm (e : Legacy)
  /-- row 2, `POR xmm1, xmm2/m128` (R111). -/
  | porXmm (e : Legacy)
  /-- row 3, `VPOR xmm1, xmm2, xmm3/m128` (R120). -/
  | vporXmm (e : Vex)
  /-- row 4, `VPOR ymm1, ymm2, ymm3/m256` (R121). -/
  | vporYmm (e : Vex)
  /-- row 5, `VPORD xmm1 (k1)(z), xmm2, xmm3/m128/m32bcst` (R131). -/
  | vpordXmm (e : Evex)
  /-- row 6, `VPORD ymm1 (k1)(z), ymm2, ymm3/m256/m32bcst` (R132). -/
  | vpordYmm (e : Evex)
  /-- row 7, `VPORD zmm1 (k1)(z), zmm2, zmm3/m512/m32bcst` (R133). -/
  | vpordZmm (e : Evex)
  /-- row 8, `VPORQ xmm1 (k1)(z), xmm2, xmm3/m128/m64bcst` (R134). -/
  | vporqXmm (e : Evex)
  /-- row 9, `VPORQ ymm1 (k1)(z), ymm2, ymm3/m256/m64bcst` (R135). -/
  | vporqYmm (e : Evex)
  /-- row 10, `VPORQ zmm1 (k1)(z), zmm2, zmm3/m512/m64bcst` (R136). -/
  | vporqZmm (e : Evex)
deriving DecidableEq, Repr

/-- R74: the extension bits of an optional REX byte, 0 when there is none. -/
def rexR (r : Option Rex) : Bool := match r with | some x => x.r | none => false
/-- R74: REX.X, 0 when there is no REX byte. -/
def rexX (r : Option Rex) : Bool := match r with | some x => x.x | none => false
/-- R74: REX.B, 0 when there is no REX byte. -/
def rexB (r : Option Rex) : Bool := match r with | some x => x.b | none => false

/-- R82, R83: VEX.X, 0 in the two-byte form. -/
def VexForm.x : VexForm → Bool
  | .two => false
  | .three x _ _ => x

/-- R82, R83: VEX.B, 0 in the two-byte form. -/
def VexForm.b : VexForm → Bool
  | .two => false
  | .three _ b _ => b

end Sys2Proof
end

