-- ==== Sys2Proof/WellFormed.lean ====
section
/-! DEFINITION. Which terms of `Instr` stand for an encoding that the decode procedure admits in a mode
(R72 to R92, D3, D19, D24). -/

namespace Sys2Proof

/-- R72, D19: the group of a legacy byte; at most one byte of each group is admitted. The segment
overrides are one group; `F2` and `F3` are one row of R72's table, `F0` another. DEDUCED (log 10). -/
def LegacyPrefix.group : LegacyPrefix → Nat
  | .seg _ => 0
  | .addrSize => 1
  | .opSize => 2
  | .repne => 3
  | .rep => 3
  | .lock => 4

/-- R72: no two bytes of one group. -/
def prefixGroupsDistinct : List LegacyPrefix → Bool
  | [] => true
  | p :: ps => ps.all (fun q => q.group != p.group) && prefixGroupsDistinct ps

/-- R72, R92: the bytes that may precede a VEX or EVEX form (segment overrides and `67`). -/
def LegacyPrefix.okBeforeVex : LegacyPrefix → Bool
  | .seg _ => true
  | .addrSize => true
  | .opSize => false
  | .repne => false
  | .rep => false
  | .lock => false

/-- R72, R92: the bytes that may precede a legacy form (segment overrides, `67`, `66`). -/
def LegacyPrefix.okBeforeLegacy : LegacyPrefix → Bool
  | .seg _ => true
  | .addrSize => true
  | .opSize => true
  | .repne => false
  | .rep => false
  | .lock => false

/-- R72, D3: in M32 the byte `67` is refused. -/
def addr16Ok (m : Mode) (ps : List LegacyPrefix) : Bool :=
  match m with
  | .m64 => true
  | .m32 => !ps.contains .addrSize

/-- R78, R79: the addressing form has no other reading: without a SIB byte `rm ≠ 100`, and a base of 101 is
not combined with mod = 00. -/
def Rm.wf : Rm → Bool
  | .reg _ => true
  | .base rm disp => rm != 4#3 && (disp != .none || rm != 5#3)
  | .dispOnly _ => true
  | .sib _ _ b disp => disp != .none || b != 5#3
  | .sibNoBase _ _ _ => true

/-- R74: a REX byte exists in M64 only. -/
def rexOk (m : Mode) (rex : Option Rex) : Bool :=
  match m with
  | .m64 => true
  | .m32 => rex.isNone

/-- R73, R74: a legacy form; `sse` tells row 2 (`66` present) from row 1 (`66` absent). -/
def Legacy.wf (sse : Bool) (m : Mode) (e : Legacy) : Bool :=
  prefixGroupsDistinct e.prefixes && e.prefixes.all LegacyPrefix.okBeforeLegacy
    && (e.prefixes.contains .opSize == sse) && addr16Ok m e.prefixes && rexOk m e.rex && e.rm.wf

/-- R84, D24: in M32 the bits that would name registers 8 to 15 are 0. -/
def Vex.regsOk (m : Mode) (e : Vex) : Bool :=
  match m with
  | .m64 => true
  | .m32 => !e.r && !e.form.x && !e.form.b && !e.vvvv.getLsbD 3

/-- R82 to R84, R92: a VEX form. -/
def Vex.wf (m : Mode) (e : Vex) : Bool :=
  prefixGroupsDistinct e.prefixes && e.prefixes.all LegacyPrefix.okBeforeVex
    && addr16Ok m e.prefixes && e.regsOk m && e.rm.wf

/-- R92, D17: zeroing-masking with no writemask, a reserved combination. -/
def Evex.zeroNoMask (e : Evex) : Bool := e.z && e.aaa == 0#3

/-- R92, D15: the broadcast bit with a register operand, a combination the model refuses. -/
def Evex.bcastReg (e : Evex) : Bool := e.bcast && !e.rm.isMem

/-- R87, D24: in M32 the bits that would name registers 8 to 31 are 0. -/
def Evex.regsOk (m : Mode) (e : Evex) : Bool :=
  match m with
  | .m64 => true
  | .m32 => !e.r && !e.x && !e.b && !e.r2 && !e.v2 && !e.vvvv.getLsbD 3

/-- R85 to R87, R92: an EVEX form. -/
def Evex.wf (m : Mode) (e : Evex) : Bool :=
  prefixGroupsDistinct e.prefixes && e.prefixes.all LegacyPrefix.okBeforeVex
    && addr16Ok m e.prefixes && e.regsOk m && !e.zeroNoMask && !e.bcastReg && e.rm.wf

/-- An instruction that the decode procedure can answer with in mode `m`. -/
def Instr.wf (m : Mode) : Instr → Bool
  | .porMm e => e.wf false m
  | .porXmm e => e.wf true m
  | .vporXmm e => e.wf m
  | .vporYmm e => e.wf m
  | .vpordXmm e => e.wf m
  | .vpordYmm e => e.wf m
  | .vpordZmm e => e.wf m
  | .vporqXmm e => e.wf m
  | .vporqYmm e => e.wf m
  | .vporqZmm e => e.wf m

/-- `Instr.wf` as a proposition. -/
abbrev WellFormed (m : Mode) (i : Instr) : Prop := i.wf m = true

end Sys2Proof
end

