-- ==== Sys2Proof/Decode.lean ====
section
/-! DEFINITION. The decoder (R70 to R92; the procedure is R91), total on any bytes and rejecting by name; then the
length (R90) and the encoder of a well-formed instruction, written from the same layouts; then the host's
entry point `decodeTableWord`. -/

namespace Sys2Proof

/-- R94: why bytes have no meaning in the model. -/
inductive DecodeRefusal where
  /-- R186: decoding would run past the end of the bytes. -/
  | truncated
  /-- R72, D19: two bytes of one group of legacy bytes. -/
  | repeatedPrefix
  /-- R92, D18: `F2` or `F3` before `0F EB`. -/
  | repBeforeLegacy
  /-- R74, R91, D19: a REX byte that does not stand immediately before `0F`. -/
  | rexMisplaced
  /-- R91, R94: another instruction, or no instruction at all. -/
  | notInScope
  /-- R84, R87, R91: in M32 the bytes are LES, LDS or BOUND. -/
  | lesLdsBound
  /-- D24: in M32 an extension bit names a register above 7. -/
  | highRegister
  /-- R72, D3: `67` in M32 (16-bit addressing). -/
  | addr16
  /-- R92, D15: EVEX.b = 1 with a register operand. -/
  | broadcastRegister
deriving DecidableEq, Repr

/-- R91: the three answers of the decode procedure. -/
inductive Decoded where
  | instr (i : Instr)
  /-- the bytes are recognised and raise #UD -/
  | ud
  /-- the bytes have no meaning in the model (R94) -/
  | refused (why : DecodeRefusal)
deriving DecidableEq, Repr

/-! ### Bytes -/

/-- R51, R80: four bytes as a 32-bit value, the first the least significant. -/
def le32 (b0 b1 b2 b3 : Byte) : BitVec 32 := b3 ++ b2 ++ b1 ++ b0

/-- R80: the bytes of a 32-bit displacement, the least significant first. -/
def le32Bytes (d : BitVec 32) : List Byte :=
  [d.extractLsb' 0 8, d.extractLsb' 8 8, d.extractLsb' 16 8, d.extractLsb' 24 8]

/-- R72: the legacy byte that `b` is, if it is one. -/
def legacyPrefixOf (b : Byte) : Option LegacyPrefix :=
  if b = 0x26#8 then some (.seg .es)
  else if b = 0x2E#8 then some (.seg .cs)
  else if b = 0x36#8 then some (.seg .ss)
  else if b = 0x3E#8 then some (.seg .ds)
  else if b = 0x64#8 then some (.seg .fs)
  else if b = 0x65#8 then some (.seg .gs)
  else if b = 0x66#8 then some .opSize
  else if b = 0x67#8 then some .addrSize
  else if b = 0xF0#8 then some .lock
  else if b = 0xF2#8 then some .repne
  else if b = 0xF3#8 then some .rep
  else none

/-- R72: the byte of a legacy prefix. -/
def LegacyPrefix.byte : LegacyPrefix → Byte
  | .seg .es => 0x26#8
  | .seg .cs => 0x2E#8
  | .seg .ss => 0x36#8
  | .seg .ds => 0x3E#8
  | .seg .fs => 0x64#8
  | .seg .gs => 0x65#8
  | .opSize => 0x66#8
  | .addrSize => 0x67#8
  | .lock => 0xF0#8
  | .repne => 0xF2#8
  | .rep => 0xF3#8

/-- R91 step 1: the legacy bytes at the front, and what follows them. -/
def takePrefixes : List Byte → List LegacyPrefix × List Byte
  | [] => ([], [])
  | b :: bs =>
    match legacyPrefixOf b with
    | none => ([], b :: bs)
    | some p => (p :: (takePrefixes bs).1, (takePrefixes bs).2)

/-- R74: the values `40` to `4F`. -/
def isRexByte (b : Byte) : Bool := b.extractLsb' 4 4 == 4#4

/-- R74: the fields of a REX byte. -/
def rexOfByte (b : Byte) : Rex :=
  { w := b.getLsbD 3, r := b.getLsbD 2, x := b.getLsbD 1, b := b.getLsbD 0 }

/-- R74: the byte `0100WRXB`. -/
def Rex.byte (r : Rex) : Byte :=
  4#4 ++ BitVec.ofBool r.w ++ BitVec.ofBool r.r ++ BitVec.ofBool r.x ++ BitVec.ofBool r.b

/-! ### ModRM, SIB, displacement -/

/-- R75, R80: the displacement that `mod` announces and the bytes after it; `none` when bytes are missing. -/
def readDisp (mod : BitVec 2) (bs : List Byte) : Option (Disp × List Byte) :=
  if mod = 0#2 then some (.none, bs)
  else if mod = 1#2 then
    match bs with
    | d :: rest => some (.d8 d, rest)
    | [] => none
  else
    match bs with
    | b0 :: b1 :: b2 :: b3 :: rest => some (.d32 (le32 b0 b1 b2 b3), rest)
    | _ => none

/-- R79, R80: the disp32 of the two forms without a base register. -/
def readDisp32 (bs : List Byte) : Option (BitVec 32 × List Byte) :=
  match bs with
  | b0 :: b1 :: b2 :: b3 :: rest => some (le32 b0 b1 b2 b3, rest)
  | _ => none

/-- R78: the SIB byte, and the displacement after it. -/
def readSib (mod : BitVec 2) (bs : List Byte) : Option (Rm × List Byte) :=
  match bs with
  | [] => none
  | s :: rest =>
    let scale := s.extractLsb' 6 2
    let index := s.extractLsb' 3 3
    let base := s.extractLsb' 0 3
    if base = 5#3 ∧ mod = 0#2 then
      (readDisp32 rest).map fun (d, r) => (.sibNoBase scale index d, r)
    else
      (readDisp mod rest).map fun (d, r) => (.sib scale index base d, r)

/-- R75, R78 to R80 (R91 step 5): ModRM, SIB and displacement: the `reg` field, the last operand, and the bytes
left over; `none` when bytes are missing. -/
def readModRM (bs : List Byte) : Option (BitVec 3 × Rm × List Byte) :=
  match bs with
  | [] => none
  | b :: rest =>
    let mod := b.extractLsb' 6 2
    let reg := b.extractLsb' 3 3
    let rm := b.extractLsb' 0 3
    if mod = 3#2 then some (reg, .reg rm, rest)
    else if rm = 4#3 then (readSib mod rest).map fun (r, t) => (reg, r, t)
    else if rm = 5#3 ∧ mod = 0#2 then (readDisp32 rest).map fun (d, t) => (reg, .dispOnly d, t)
    else (readDisp mod rest).map fun (d, t) => (reg, .base rm d, t)

/-- R75: the `mod` field of a displacement. -/
def Disp.mod : Disp → BitVec 2
  | .none => 0#2
  | .d8 _ => 1#2
  | .d32 _ => 2#2

/-- R80: the bytes of a displacement. -/
def Disp.bytes : Disp → List Byte
  | .none => []
  | .d8 d => [d]
  | .d32 d => le32Bytes d

/-- R75: the ModRM byte. -/
def modRMByte (mod : BitVec 2) (reg rm : BitVec 3) : Byte := mod ++ reg ++ rm

/-- R78: the SIB byte. -/
def sibByte (scale : BitVec 2) (index base : BitVec 3) : Byte := scale ++ index ++ base

/-- R75, R78, R80: ModRM, SIB and displacement of an operand. -/
def Rm.bytes (reg : BitVec 3) : Rm → List Byte
  | .reg rm => [modRMByte 3#2 reg rm]
  | .base rm disp => modRMByte disp.mod reg rm :: disp.bytes
  | .dispOnly d => modRMByte 0#2 reg 5#3 :: le32Bytes d
  | .sib scale index bs disp =>
    modRMByte disp.mod reg 4#3 :: sibByte scale index bs :: disp.bytes
  | .sibNoBase scale index d =>
    modRMByte 0#2 reg 4#3 :: sibByte scale index 5#3 :: le32Bytes d

/-! ### The three families -/

/-- R91 step 5 for every family: refuse 16-bit addressing (D3), then read ModRM and build the form. -/
def finishForm (m : Mode) (ps : List LegacyPrefix) (bs : List Byte)
    (build : BitVec 3 → Rm → Decoded) : Decoded :=
  if addr16Ok m ps then
    match readModRM bs with
    | none => .refused .truncated
    | some (reg, rm, _) => build reg rm
  else .refused .addr16

/-- R91 step 3, after the byte `0F`: the legacy family, rows 1 and 2 (R73, R92). -/
def decodeLegacy (m : Mode) (ps : List LegacyPrefix) (rex : Option Rex) (bs : List Byte) : Decoded :=
  match bs with
  | [] => .refused .truncated
  | b1 :: rest =>
    if b1 ≠ 0xEB#8 then .refused .notInScope
    else if ps.contains .lock then .ud
    else if ps.contains .repne || ps.contains .rep then .refused .repBeforeLegacy
    else finishForm m ps rest fun reg rm =>
      if ps.contains .opSize then .instr (.porXmm ⟨ps, rex, reg, rm⟩)
      else .instr (.porMm ⟨ps, rex, reg, rm⟩)

/-- R92: some of `66`, `F2`, `F3`, `F0` stands before a VEX or EVEX form. -/
def illegalBeforeVex (ps : List LegacyPrefix) : Bool := !ps.all LegacyPrefix.okBeforeVex

/-- R84, R91 step 4: the VEX family, its payload fields read: rows 3 and 4. -/
def decodeVexBody (m : Mode) (ps : List LegacyPrefix) (form : VexForm) (r : Bool) (map : BitVec 5)
    (vvvv : BitVec 4) (l : Bool) (pp : BitVec 2) (bs : List Byte) : Decoded :=
  if illegalBeforeVex ps then .ud
  else if map ≠ 1#5 ∨ pp ≠ 1#2 then .refused .notInScope
  else
    match bs with
    | [] => .refused .truncated
    | op :: rest =>
      if op ≠ 0xEB#8 then .refused .notInScope
      else if !(Vex.regsOk m ⟨ps, form, r, vvvv, 0#3, .reg 0#3⟩) then .refused .highRegister
      else finishForm m ps rest fun reg rm =>
        if l then .instr (.vporYmm ⟨ps, form, r, vvvv, reg, rm⟩)
        else .instr (.vporXmm ⟨ps, form, r, vvvv, reg, rm⟩)

/-- R84, R87, R91 step 3: in M32 a VEX or EVEX byte is followed by a byte whose bits 7:6 are 11. -/
def vexInMode (m : Mode) (p : Byte) : Bool :=
  match m with
  | .m64 => true
  | .m32 => p.extractLsb' 6 2 == 3#2

/-- R82: the two-byte VEX form, after the byte `C5`. -/
def decodeVex2 (m : Mode) (ps : List LegacyPrefix) (bs : List Byte) : Decoded :=
  match bs with
  | p :: rest =>
    if vexInMode m p then
      decodeVexBody m ps .two (!p.getLsbD 7) 1#5 (~~~(p.extractLsb' 3 4)) (p.getLsbD 2)
        (p.extractLsb' 0 2) rest
    else .refused .lesLdsBound
  | [] => .refused .truncated

/-- R83: the three-byte VEX form, after the byte `C4`. -/
def decodeVex3 (m : Mode) (ps : List LegacyPrefix) (bs : List Byte) : Decoded :=
  match bs with
  | p0 :: rest =>
    if vexInMode m p0 then
      match rest with
      | p1 :: rest' =>
        decodeVexBody m ps (.three (!p0.getLsbD 6) (!p0.getLsbD 5) (p1.getLsbD 7)) (!p0.getLsbD 7)
          (p0.extractLsb' 0 5) (~~~(p1.extractLsb' 3 4)) (p1.getLsbD 2) (p1.extractLsb' 0 2) rest'
      | [] => .refused .truncated
    else .refused .lesLdsBound
  | [] => .refused .truncated

/-- R86: the row that W and L'L select; `none` for the reserved L'L = 11. -/
def evexRow (w : Bool) (ll : BitVec 2) (e : Evex) : Option Instr :=
  if ll = 0#2 then some (if w then .vporqXmm e else .vpordXmm e)
  else if ll = 1#2 then some (if w then .vporqYmm e else .vpordYmm e)
  else if ll = 2#2 then some (if w then .vporqZmm e else .vpordZmm e)
  else none

/-- R91 step 4, R92: what an EVEX form with a complete set of fields decodes to once ModRM is read. -/
def finishEvex (w : Bool) (ll : BitVec 2) (e : Evex) : Decoded :=
  if e.bcastReg then .refused .broadcastRegister
  else
    match evexRow w ll e with
    | some i => .instr i
    | none => .ud

/-- R85 to R87, R91 step 4: the EVEX family, after `62` and its three payload bytes: rows 5 to 10. -/
def decodeEvexBody (m : Mode) (ps : List LegacyPrefix) (p0 p1 p2 : Byte) (bs : List Byte) : Decoded :=
  let e : BitVec 3 → Rm → Evex := fun reg rm =>
    { prefixes := ps
      r := !p0.getLsbD 7
      x := !p0.getLsbD 6
      b := !p0.getLsbD 5
      r2 := !p0.getLsbD 4
      vvvv := ~~~(p1.extractLsb' 3 4)
      v2 := !p2.getLsbD 3
      z := p2.getLsbD 7
      bcast := p2.getLsbD 4
      aaa := p2.extractLsb' 0 3
      reg := reg
      rm := rm }
  let ll := p2.extractLsb' 5 2
  if illegalBeforeVex ps then .ud
  else if p0.extractLsb' 2 2 ≠ 0#2 ∨ p1.getLsbD 2 = false then .ud
  else if p0.extractLsb' 0 2 ≠ 1#2 ∨ p1.extractLsb' 0 2 ≠ 1#2 then .refused .notInScope
  else
    match bs with
    | [] => .refused .truncated
    | op :: rest =>
      if op ≠ 0xEB#8 then .refused .notInScope
      else if ll = 3#2 then .ud
      else if (e 0#3 (.reg 0#3)).zeroNoMask then .ud
      else if !(e 0#3 (.reg 0#3)).regsOk m then .refused .highRegister
      else finishForm m ps rest fun reg rm => finishEvex (p1.getLsbD 7) ll (e reg rm)

/-- R85, R91 step 3: the EVEX family, after the byte `62`. -/
def decodeEvex (m : Mode) (ps : List LegacyPrefix) (bs : List Byte) : Decoded :=
  match bs with
  | p0 :: rest =>
    if vexInMode m p0 then
      match rest with
      | p1 :: p2 :: rest' => decodeEvexBody m ps p0 p1 p2 rest'
      | _ => .refused .truncated
    else .refused .lesLdsBound
  | [] => .refused .truncated

/-- R91 step 3 for the bytes `C5`, `C4` and `62`; `none` for any other byte. -/
def decodeVexFamily (m : Mode) (ps : List LegacyPrefix) (b0 : Byte) (bs : List Byte) : Option Decoded :=
  if b0 = 0xC5#8 then some (decodeVex2 m ps bs)
  else if b0 = 0xC4#8 then some (decodeVex3 m ps bs)
  else if b0 = 0x62#8 then some (decodeEvex m ps bs)
  else none

/-- R91 step 2: what stands after a REX byte: `0F`, or a VEX or EVEX byte that forms one of rows 3 to 10
(#UD, R92), or something the model refuses. EVEX bytes that alone raise #UD for a reserved value (P0[3:2], P1[2], L'L = 11,
z = 1 with aaa = 000) do not decode to one of rows 3 to 10 and are refused here, though R92 and U6 could be read as giving #UD for
them too: DESIGN CHOICE (log 32). -/
def decodeAfterRex (m : Mode) (ps : List LegacyPrefix) (rex : Rex) (bs : List Byte) : Decoded :=
  match bs with
  | [] => .refused .truncated
  | b0 :: rest =>
    if b0 = 0x0F#8 then decodeLegacy m ps (some rex) rest
    else
      match decodeVexFamily m [] b0 rest with
      | some (.instr _) => .ud
      | _ => .refused .rexMisplaced

/-- R91: the decode procedure, on the bytes from the instruction's first byte on. Where several conditions hold, the first
step of R91 that has one answers. DEDUCED (log 17). -/
def decode (m : Mode) (bytes : List Byte) : Decoded :=
  let ps := (takePrefixes bytes).1
  if prefixGroupsDistinct ps then
    match (takePrefixes bytes).2 with
    | [] => .refused .truncated
    | b0 :: rest =>
      if m = .m64 ∧ isRexByte b0 = true then decodeAfterRex m ps (rexOfByte b0) rest
      else if b0 = 0x0F#8 then decodeLegacy m ps none rest
      else (decodeVexFamily m ps b0 rest).getD (.refused .notInScope)
  else .refused .repeatedPrefix

/-! ### Length -/

/-- R80, R90: the bytes of a displacement. -/
def Disp.len : Disp → Nat
  | .none => 0
  | .d8 _ => 1
  | .d32 _ => 4

/-- R90: ModRM, SIB and displacement bytes. -/
def Rm.len : Rm → Nat
  | .reg _ => 1
  | .base _ disp => 1 + disp.len
  | .dispOnly _ => 5
  | .sib _ _ _ disp => 2 + disp.len
  | .sibNoBase _ _ _ => 6

/-- R90: the length of a legacy form: prefixes, REX, `0F EB`, ModRM on. -/
def Legacy.len (e : Legacy) : Nat :=
  e.prefixes.length + (if e.rex.isSome then 1 else 0) + 2 + e.rm.len

/-- R90: the VEX bytes before the opcode. -/
def VexForm.len : VexForm → Nat
  | .two => 2
  | .three _ _ _ => 3

/-- R90: the length of a VEX form. -/
def Vex.len (e : Vex) : Nat := e.prefixes.length + e.form.len + 1 + e.rm.len

/-- R90: the length of an EVEX form. -/
def Evex.len (e : Evex) : Nat := e.prefixes.length + 4 + 1 + e.rm.len

/-- R90: the length in bytes of an instruction. -/
def Instr.len : Instr → Nat
  | .porMm e => e.len
  | .porXmm e => e.len
  | .vporXmm e => e.len
  | .vporYmm e => e.len
  | .vpordXmm e => e.len
  | .vpordYmm e => e.len
  | .vpordZmm e => e.len
  | .vporqXmm e => e.len
  | .vporqYmm e => e.len
  | .vporqZmm e => e.len

/-! ### The encoder -/

/-- R72: the bytes of the legacy prefixes, in their order. -/
def prefixBytes (ps : List LegacyPrefix) : List Byte := ps.map LegacyPrefix.byte

/-- R70, R73: the bytes of a legacy form. -/
def Legacy.bytes (e : Legacy) : List Byte :=
  prefixBytes e.prefixes ++ (e.rex.map Rex.byte).toList ++ [0x0F#8, 0xEB#8] ++ e.rm.bytes e.reg

/-- R82 to R84: the VEX bytes of a form with vector length bit `l`. -/
def Vex.payload (l : Bool) (e : Vex) : List Byte :=
  match e.form with
  | .two => [0xC5#8, BitVec.ofBool (!e.r) ++ ~~~e.vvvv ++ BitVec.ofBool l ++ 1#2]
  | .three x b w =>
    [0xC4#8, BitVec.ofBool (!e.r) ++ BitVec.ofBool (!x) ++ BitVec.ofBool (!b) ++ 1#5,
      BitVec.ofBool w ++ ~~~e.vvvv ++ BitVec.ofBool l ++ 1#2]

/-- R70, R84: the bytes of a VEX form. -/
def Vex.bytes (l : Bool) (e : Vex) : List Byte :=
  prefixBytes e.prefixes ++ e.payload l ++ [0xEB#8] ++ e.rm.bytes e.reg

/-- R85: the byte P0 of an EVEX form. -/
def Evex.p0 (e : Evex) : Byte :=
  BitVec.ofBool (!e.r) ++ BitVec.ofBool (!e.x) ++ BitVec.ofBool (!e.b) ++ BitVec.ofBool (!e.r2)
    ++ 0#2 ++ 1#2

/-- R85: the byte P1 of an EVEX form. -/
def Evex.p1 (w : Bool) (e : Evex) : Byte := BitVec.ofBool w ++ ~~~e.vvvv ++ 1#1 ++ 1#2

/-- R85: the byte P2 of an EVEX form. -/
def Evex.p2 (ll : BitVec 2) (e : Evex) : Byte :=
  BitVec.ofBool e.z ++ ll ++ BitVec.ofBool e.bcast ++ BitVec.ofBool (!e.v2) ++ e.aaa

/-- R70, R85, R86: the bytes of an EVEX form with width bit `w` and vector length `ll`. -/
def Evex.bytes (w : Bool) (ll : BitVec 2) (e : Evex) : List Byte :=
  prefixBytes e.prefixes ++ [0x62#8, e.p0, e.p1 w, e.p2 ll] ++ [0xEB#8] ++ e.rm.bytes e.reg

/-- R70: the bytes of an instruction, in increasing address order. -/
def encode : Instr → List Byte
  | .porMm e => e.bytes
  | .porXmm e => e.bytes
  | .vporXmm e => e.bytes false
  | .vporYmm e => e.bytes true
  | .vpordXmm e => e.bytes false 0#2
  | .vpordYmm e => e.bytes false 1#2
  | .vpordZmm e => e.bytes false 2#2
  | .vporqXmm e => e.bytes true 0#2
  | .vporqYmm e => e.bytes true 1#2
  | .vporqZmm e => e.bytes true 2#2

/-! ### The host's entry point -/

/-- The `n` bytes of the number `w`, the most significant first: how spec/opcode_table.json numbers
a row (`0F EB` of row 1 are its bits 23:8). -/
def bytesHighFirst : Nat → Nat → List Byte
  | 0, _ => []
  | n + 1, w => BitVec.ofNat 8 (w >>> (8 * n)) :: bytesHighFirst n w

/-- The `n` bytes of the number `w`, the least significant first: bit 0 is the lowest bit of the first byte. -/
def bytesLowFirst : Nat → Nat → List Byte
  | 0, _ => []
  | n + 1, w => BitVec.ofNat 8 w :: bytesLowFirst n (w >>> 8)

/-- Zero bytes after the table's bits, up to the longest instruction. -/
def padInstr (bs : List Byte) : List Byte :=
  bs ++ List.replicate (Config.maxInstrBytes - bs.length) 0#8

/-- An instruction of the opcode table laid out as instruction bytes. The table numbers a row's bytes as one
number with the first byte on top; a word numbered from its first byte upwards is read too, where the first
reading gives no instruction. DESIGN CHOICE (log 18). -/
def tableBytes (m : Mode) (nbits w : Nat) : List Byte :=
  let high := padInstr (bytesHighFirst ((nbits + 7) / 8) w)
  let low := padInstr (bytesLowFirst ((nbits + 7) / 8) w)
  match decode m high with
  | .instr _ => high
  | _ =>
    match decode m low with
    | .instr _ => low
    | _ => high

/-- The instruction the decoder reads from an opcode-table word of `nbits` bits, in the launch mode. -/
def decodeTableWord (nbits w : Nat) : Option Instr :=
  match decode Config.resetMode (tableBytes Config.resetMode nbits w) with
  | .instr i => some i
  | _ => none

end Sys2Proof
end

