-- ==== Sys2Proof/Machine/State.lean ====
section
/-! DEFINITION. The machine's state as plain data (R20 to R34, R162, R180, R186), the exceptions, the faults and the
refusals a step can end in, and the state a run starts from. What the spec calls a parameter of the step
relation (R5, R34: `mode`, `Env`, `SegBase`, `Translate`, `Canonical`, the program text) stands here as data that no
instruction changes. DESIGN CHOICE (log 25). -/

namespace Sys2Proof.Machine

/-- R32, R53: a segment register. `base` is `SegBase`. `limit` is the last offset that may be read in M32,
`none` where limits are not checked (D4: the flat default). `readable` is the access right a load needs in M32. The
form of limit and access right is DEDUCED (log 13). -/
structure Segment where
  base : Addr
  limit : Option (BitVec 32)
  readable : Bool
deriving DecidableEq, Repr

/-- R32: the six segment registers. -/
structure Segments where
  es : Segment
  cs : Segment
  ss : Segment
  ds : Segment
  fs : Segment
  gs : Segment
deriving DecidableEq, Repr

/-- R28: the control state that the exception conditions read, `Env`; `EFLAGS_AC` is bit 18 of `State.rflags`. -/
structure Env where
  /-- CR0 bit 2 -/
  cr0EM : Bool
  /-- CR0 bit 3 -/
  cr0TS : Bool
  /-- CR0 bit 18 -/
  cr0AM : Bool
  /-- the current privilege level, 0 to 3 -/
  cpl : Fin 4
  /-- CR4 bit 9 -/
  cr4OSFXSR : Bool
  /-- CR4 bit 18 -/
  cr4OSXSAVE : Bool
  /-- XCR0 bits 7:0 (0 x87, 1 SSE, 2 AVX, 5 opmask, 6 ZMM_Hi256, 7 Hi16_ZMM) -/
  xcr0 : BitVec 8
  /-- x87 status word bit 7: an unmasked x87 exception is pending -/
  x87ES : Bool
  /-- CPUID.01H:EDX bit 23 -/
  hasMMX : Bool
  /-- CPUID.01H:EDX bit 26 -/
  hasSSE2 : Bool
  /-- CPUID.01H:ECX bit 28 -/
  hasAVX : Bool
  /-- CPUID.(EAX=07H, ECX=0):EBX bit 5 -/
  hasAVX2 : Bool
  /-- CPUID.(EAX=07H, ECX=0):EBX bit 16 -/
  hasAVX512F : Bool
  /-- CPUID.(EAX=07H, ECX=0):EBX bit 31 -/
  hasAVX512VL : Bool
deriving DecidableEq, Repr

/-- R29, D20: the x87 state that row 1 changes beside the MMX registers. -/
structure X87Side where
  /-- `TOP`, status word bits 13:11 -/
  top : BitVec 3
  /-- the tag word, two bits a register, 00 = valid -/
  tags : BitVec 16
  /-- bits 79:64 of the eight physical data registers `R[i]`; bits 63:0 are `MM[i]` -/
  hi : Vector (BitVec 16) 8
deriving DecidableEq, Repr

/-- R60, R61: how `Translate` answers on a range of linear addresses. The data form and P = 1 of a reserved-bit fault are
PRESUMED (log 14). -/
inductive PageKind where
  /-- a not-present page: #PF with P = 0 -/
  | notPresent
  /-- a paging structure with a reserved bit set: #PF with RSVD = 1 -/
  | reservedBit
  /-- a present page: the byte at offset `o` is the memory byte at `phys + o`; `user = false` makes it supervisor-only -/
  | present (phys : Nat) (user : Bool)
deriving DecidableEq, Repr

/-- R61: one range `lo .. lo + size - 1` of linear addresses in the data form of `Translate`. -/
structure Page where
  lo : Nat
  size : Nat
  kind : PageKind
deriving DecidableEq, Repr

/-- R59, R186, D8: the program text, a finite sequence of bytes at a base address, apart from data memory. -/
structure ProgramText where
  base : Addr
  bytes : List Byte
deriving DecidableEq, Repr

/-- R30, R60: data memory, the mapped bytes by address, addresses strictly rising (`Memory.wf`). A byte that is
not listed is not mapped: it has no value, and reading it is #PF (D5, log 5). -/
abbrev Memory := List Host.Cell

/-- R20 to R34: the whole machine. -/
structure State where
  /-- R5, D2 -/
  mode : Mode
  /-- R28 -/
  env : Env
  /-- R26, R28: RFLAGS; bit 18 is AC -/
  rflags : BitVec 64
  /-- R65: the canonical width -/
  linearWidth : LinearWidth
  /-- R32 -/
  segs : Segments
  /-- R24: `x[0..15]`; in M32 only bits 31:0 of the first eight are in use -/
  x : Vector (BitVec 64) 16
  /-- R22: `MM[0..7]` -/
  mm : Vector (BitVec 64) 8
  /-- R29 -/
  x87 : X87Side
  /-- R20: `ZMM[0..31]`; XMM and YMM are views of the low bits -/
  zmm : Vector (BitVec Config.maxvl) 32
  /-- R23: `K[0..7]` -/
  k : Vector (BitVec Config.kw) 8
  /-- R25: RIP, or EIP in the low 32 bits -/
  pc : Addr
  /-- R151, R162: the register a page fault records its linear address in -/
  cr2 : Addr
  /-- R61: `Translate`, the first range that holds an address decides; an address in no range is translated to itself -/
  pages : List Page
  /-- R30 -/
  mem : Memory
  /-- R186 -/
  text : ProgramText
deriving DecidableEq, Repr

/-- R151: the exceptions the ten forms can raise, with the values R162 gives them. -/
inductive Exc where
  /-- #UD -/
  | ud
  /-- #NM -/
  | nm
  /-- #SS(0) -/
  | ss
  /-- #GP(0) -/
  | gp
  /-- #PF(code), with the faulting linear address -/
  | pf (code : BitVec 32) (addr : Addr)
  /-- #MF -/
  | mf
  /-- #AC(0) -/
  | ac
deriving DecidableEq, Repr

/-- R159: how a run ends when an instruction raises an exception: `Fault(#XX, code, pc, extra)`, terminal, with
the state before the instruction. Every constructor is raised by `takeException`. All are safe: the model stops where
hardware would enter a handler (R4, D9, log 9). -/
inductive Fault where
  /-- #UD, vector 6, no error code: the decoder (R92) and the control-state and feature checks (R152 to R155). Safe. -/
  | invalidOpcode (pc : Addr)
  /-- #NM, vector 7, no error code: CR0.TS = 1 (R152, R154, R155). Safe. -/
  | deviceNotAvailable (pc : Addr)
  /-- #SS, vector 12, error code 0: a memory operand through SS (R156). Safe. -/
  | stackFault (pc : Addr) (code : BitVec 32)
  /-- #GP, vector 13, error code 0: a memory operand (R156), the alignment of row 2 among them (R52). Safe. -/
  | generalProtection (pc : Addr) (code : BitVec 32)
  /-- #PF, vector 14: a byte of the memory operand (R156, R162); `cr2` is the extra value. Safe, also where R64
  reads a masked-off element. -/
  | pageFault (pc : Addr) (code : BitVec 32) (cr2 : Addr)
  /-- #MF, vector 16, no error code: row 1 with an x87 exception pending (R154). Safe. -/
  | x87Pending (pc : Addr)
  /-- #AC, vector 17, error code 0: row 1, misaligned with alignment checking enabled (R154). Safe. -/
  | alignmentCheck (pc : Addr) (code : BitVec 32)
deriving DecidableEq, Repr

/-- R94: the ends that are neither a completion nor an exception. All are safe: the model gives no result. -/
inductive Refusal where
  /-- An instruction of the table without a meaning; no arm of `exec` answers so. Safe. -/
  | notModelled (mnemonic : String)
  /-- The decoder refuses the bytes (R94). Safe. -/
  | decode (why : DecodeRefusal)
  /-- R186: `pc` is just past the last byte of the text; the run has ended successfully. Safe. -/
  | endOfText
  /-- D8, D25: `pc` is outside the program text. Safe. -/
  | fetchOutsideText
  /-- R52, D14: a misaligned memory operand of rows 3 to 10 with alignment checking enabled, raised by `memRead`,
  after the exceptions of the operand (log 31). Safe. -/
  | misalignedVector
deriving DecidableEq, Repr

/-- A flat segment (D4): base 0, no limit check, readable. -/
def flatSegment : Segment := { base := 0#64, limit := none, readable := true }

/-- The control state of the launch premise (R28, D14). CPL is a DESIGN CHOICE (log 2). -/
def launchEnv : Env :=
  { cr0EM := false
    cr0TS := false
    cr0AM := false
    cpl := 0
    cr4OSFXSR := true
    cr4OSXSAVE := true
    xcr0 := 0xE7#8
    x87ES := false
    hasMMX := true
    hasSSE2 := true
    hasAVX := true
    hasAVX2 := true
    hasAVX512F := true
    hasAVX512VL := true }

/-- The state a run starts from. The spec leaves every reset value unspecified (R33, R180) and gives a launch
premise for `Env` (R28), the segment bases (D4), translation and the canonical width (D5); the other values are
the model's (log 1 to 4). No program and no memory is there: both are placed from outside (log 6). -/
def State.reset : State :=
  { mode := Config.resetMode
    env := launchEnv
    rflags := 2#64
    linearWidth := .w48
    segs :=
      { es := flatSegment
        cs := flatSegment
        ss := flatSegment
        ds := flatSegment
        fs := flatSegment
        gs := flatSegment }
    x := Vector.replicate 16 0#64
    mm := Vector.replicate 8 0#64
    x87 := { top := 0#3, tags := 0x5555#16, hi := Vector.replicate 8 0#16 }
    zmm := Vector.replicate 32 0#512
    k := Vector.replicate 8 0#64
    pc := Config.resetPc
    cr2 := 0#64
    pages := []
    mem := []
    text := { base := Config.resetPc, bytes := [] } }

end Sys2Proof.Machine
end

