-- ==== Sys2Proof/Machine/Flags.lean ====
section
/-! DEFINITION. Flags (R26, R28). The ten forms write no flag ("Flags Affected: None."), so there is no flag
computation; the one flag that is read is AC. -/

namespace Sys2Proof.Machine

/-- R28: EFLAGS.AC, bit 18. -/
def State.eflagsAC (s : State) : Bool := s.rflags.getLsbD 18

/-- R28, R52: alignment checking is enabled when CR0.AM = 1, EFLAGS.AC = 1 and CPL = 3. -/
def State.alignmentCheckEnabled (s : State) : Bool := s.env.cr0AM && s.eflagsAC && s.env.cpl == 3

end Sys2Proof.Machine
end

