-- ==== Sys2Proof/Machine/Memory.lean ====
section
/-! DEFINITION. Data memory by byte (R30, R51, R60): its canonical form, the read and the write of one byte, and the
little-endian value of a run of bytes. -/

namespace Sys2Proof.Machine

/-- R60: the byte at an address, `none` where no byte is mapped. -/
def Memory.read : Memory → Nat → Option Byte
  | [], _ => none
  | (a, b) :: m, i => if a = i then some b else Memory.read m i

/-- Places a byte at an address and keeps the addresses strictly rising. -/
def Memory.write : Memory → Nat → Byte → Memory
  | [], i, v => [(i, v)]
  | (a, b) :: m, i, v =>
    if i < a then (i, v) :: (a, b) :: m
    else if i = a then (i, v) :: m
    else (a, b) :: Memory.write m i v

/-- The canonical form: addresses strictly rising. An unlisted address has no value, so no entry can equal it. -/
def Memory.wf : Memory → Bool
  | [] => true
  | (a, _) :: m => m.all (fun c => decide (a < c.1)) && Memory.wf m

/-- R51: the value of bytes at rising addresses, the first the least significant. -/
def leNat : List Byte → Nat
  | [] => 0
  | b :: bs => b.toNat + 256 * leNat bs

/-- R51: the same as a bit vector. -/
def leValue (w : Nat) (bs : List Byte) : BitVec w := BitVec.ofNat w (leNat bs)

/-- R8, R51: the low `n` bytes of `v`, the first the least significant. -/
def leBytes {w : Nat} (v : BitVec w) (n : Nat) : List Byte :=
  (List.range n).map fun i => v.extractLsb' (8 * i) 8

/-- R8: places bytes at rising addresses (`MemWrite`; no in-scope instruction stores, R55). -/
def Memory.writeBytes : Memory → Nat → List Byte → Memory
  | m, _, [] => m
  | m, i, b :: bs => Memory.writeBytes (Memory.write m i b) (i + 1) bs

end Sys2Proof.Machine
end

