-- ==== Sys2Proof/Machine/Ops.lean ====
section
/-! DEFINITION. The named operations over registers, the instruction pointer, memory and the program text that every
meaning is made of, and taking an exception. -/

namespace Sys2Proof.Machine

/-! ### Taking an exception -/

/-- R159, R162: what raising an exception ends the run in: the exception, its error code, the address of the
faulting instruction, and for #PF the linear address. No register and no memory has changed (R157). -/
def takeException (x : Exc) (s : State) : Fault :=
  match x with
  | .ud => .invalidOpcode s.pc
  | .nm => .deviceNotAvailable s.pc
  | .ss => .stackFault s.pc 0#32
  | .gp => .generalProtection s.pc 0#32
  | .pf code addr => .pageFault s.pc code addr
  | .mf => .x87Pending s.pc
  | .ac => .alignmentCheck s.pc 0#32

/-- R151: the vector number of a fault. -/
def Fault.vector : Fault → Nat
  | .invalidOpcode _ => 6
  | .deviceNotAvailable _ => 7
  | .stackFault _ _ => 12
  | .generalProtection _ _ => 13
  | .pageFault _ _ _ => 14
  | .x87Pending _ => 16
  | .alignmentCheck _ _ => 17

/-- R162: the error code of a fault, where there is one. -/
def Fault.errorCode : Fault → Option (BitVec 32)
  | .invalidOpcode _ => none
  | .deviceNotAvailable _ => none
  | .stackFault _ c => some c
  | .generalProtection _ c => some c
  | .pageFault _ c _ => some c
  | .x87Pending _ => none
  | .alignmentCheck _ c => some c

/-- R151: the saved instruction pointer of a fault. -/
def Fault.savedPc : Fault → Addr
  | .invalidOpcode p => p
  | .deviceNotAvailable p => p
  | .stackFault p _ => p
  | .generalProtection p _ => p
  | .pageFault p _ _ => p
  | .x87Pending p => p
  | .alignmentCheck p _ => p

/-- Loads CR2. -/
def State.setCr2 (s : State) (a : Addr) : State := { s with cr2 := a }

/-- R157, R162: the machine a fault leaves: the state before the instruction, with CR2 loaded by #PF. -/
def State.afterFault (s : State) (f : Fault) : State :=
  match f with
  | .invalidOpcode _ => s
  | .deviceNotAvailable _ => s
  | .stackFault _ _ => s
  | .generalProtection _ _ => s
  | .pageFault _ _ a => s.setCr2 a
  | .x87Pending _ => s
  | .alignmentCheck _ _ => s

/-- Why an instruction does not complete: it raises an exception, or the model refuses it. -/
inductive Stop where
  | exc (x : Exc)
  | refuse (r : Refusal)
deriving DecidableEq, Repr

/-- R157, R158: the shape of every form: the control-state conditions, then the operand read (which may stop),
then the writes. Nothing is written unless all conditions hold. -/
def runForm {α : Type} (s : State) (check : Option Exc) (src : Except Stop α) (finish : α → State) :
    Host.Outcome State Fault Refusal :=
  match check with
  | some x => .fault (takeException x s)
  | none =>
    match src with
    | .error (.exc x) => .fault (takeException x s)
    | .error (.refuse r) => .refused r
    | .ok v => .next (finish v)

/-! ### The instruction pointer -/

/-- R25, R53: an address as wide as the mode's: 64 bits in M64, 32 bits in M32. -/
def wrapAddr (m : Mode) (a : Addr) : Addr :=
  match m with
  | .m64 => a
  | .m32 => (a.setWidth 32).setWidth 64

/-- Writes the instruction pointer. -/
def State.setPc (s : State) (p : Addr) : State := { s with pc := p }

/-- R25, R113: `pc <- pc + len`, truncated to the mode's width. -/
def State.advance (s : State) (len : Nat) : State :=
  s.setPc (wrapAddr s.mode (s.pc + BitVec.ofNat 64 len))

/-! ### Registers -/

/-- R24: `x[n]`. -/
def State.gpr (s : State) (n : BitVec 4) : BitVec 64 :=
  s.x[n.toNat]'(by have := n.isLt; omega)

/-- R22: `MM[n]`. -/
def State.mmAt (s : State) (n : BitVec 3) : BitVec 64 :=
  s.mm[n.toNat]'(by have := n.isLt; omega)

/-- R22: `MM[n] <- v`. -/
def State.setMm (s : State) (n : BitVec 3) (v : BitVec 64) : State :=
  { s with mm := s.mm.set n.toNat v (by have := n.isLt; omega) }

/-- R29: what row 1 does to the x87 state when it writes `MM[n]`: TOP is 0, all tags valid, bits 79:64 of the
written register all ones. -/
def State.mmxToX87 (s : State) (n : BitVec 3) : State :=
  { s with
    x87 :=
      { top := 0#3
        tags := 0#16
        hi := s.x87.hi.set n.toNat (BitVec.allOnes 16) (by have := n.isLt; omega) } }

/-- R20: the whole of `ZMM[n]`. -/
def State.zmmAt (s : State) (n : BitVec 5) : BitVec Config.maxvl :=
  s.zmm[n.toNat]'(by have := n.isLt; omega)

/-- R20: `ZMM[n] <- v`, all `MAXVL` bits. -/
def State.setZmm (s : State) (n : BitVec 5) (v : BitVec Config.maxvl) : State :=
  { s with zmm := s.zmm.set n.toNat v (by have := n.isLt; omega) }

/-- R20: `ZMM[n][vl-1:0]`. -/
def State.vec (s : State) (n : BitVec 5) (vl : Nat) : BitVec vl := (s.zmmAt n).setWidth vl

/-- R23: `K[n]`. -/
def State.opmask (s : State) (n : BitVec 3) : BitVec Config.kw :=
  s.k[n.toNat]'(by have := n.isLt; omega)

/-- R6, R130: `v[j*es+es-1 : j*es]`, element `j`. -/
def elem {w : Nat} (v : BitVec w) (es j : Nat) : BitVec es := v.extractLsb' (j * es) es

/-- R8, R130: `v[j*es+es-1 : j*es] <- x`, the other bits as they were. -/
def setElem {w : Nat} (v : BitVec w) (es j : Nat) (x : BitVec es) : BitVec w :=
  (v &&& ~~~((BitVec.allOnes es).setWidth w <<< (j * es))) ||| (x.setWidth w <<< (j * es))

/-- R111: `ZMM[n][127:0] <- v`, bits `MAXVL-1:128` unmodified. -/
def State.setXmmKeep (s : State) (n : BitVec 5) (v : BitVec 128) : State :=
  s.setZmm n (setElem (s.zmmAt n) 128 0 v)

/-- R120, R121, R130: `ZMM[n][vl-1:0] <- v` and `ZMM[n][MAXVL-1:vl] <- 0`. -/
def State.setVecZero {vl : Nat} (s : State) (n : BitVec 5) (v : BitVec vl) : State :=
  s.setZmm n (v.setWidth Config.maxvl)

/-! ### Memory -/

/-- R32: the segment register that `g` names. -/
def Segments.get (t : Segments) : Seg → Segment
  | .es => t.es
  | .cs => t.cs
  | .ss => t.ss
  | .ds => t.ds
  | .fs => t.fs
  | .gs => t.gs

/-- R32, R53: `SegBase`; in M64 only FS and GS have a base. -/
def State.segBase (s : State) (g : Seg) : Addr :=
  match s.mode with
  | .m32 => (s.segs.get g).base
  | .m64 =>
    match g with
    | .fs => s.segs.fs.base
    | .gs => s.segs.gs.base
    | .es => 0#64
    | .cs => 0#64
    | .ss => 0#64
    | .ds => 0#64

/-- R53: the linear address of an effective address. -/
def State.linearAddr (s : State) (g : Seg) (ea : Addr) : Addr := wrapAddr s.mode (s.segBase g + ea)

/-- R65: the bits above the linear-address width. -/
def linearBits : LinearWidth → Nat
  | .w48 => 48
  | .w57 => 57

/-- R65: `Canonical`: bits 63 down to the top bit of the linear width are all equal. -/
def canonical (w : LinearWidth) (a : Addr) : Bool :=
  a >>> (linearBits w - 1) == 0#64
    || a >>> (linearBits w - 1) == BitVec.allOnes 64 >>> (linearBits w - 1)

/-- R51, R53: the linear address of byte `k` of an operand. Sums stay in the mode's width. DEDUCED (log 11). -/
def State.byteAddr (s : State) (la : Addr) (k : Nat) : Addr :=
  wrapAddr s.mode (la + BitVec.ofNat 64 k)

/-- R156 (1): M64: every byte address is canonical. M32: every offset is within the segment's limit, where it has
one, and the segment is readable. -/
def State.segmentOk (s : State) (g : Seg) (ea la : Addr) (n : Nat) : Bool :=
  match s.mode with
  | .m64 => (List.range n).all fun k => canonical s.linearWidth (s.byteAddr la k)
  | .m32 =>
    (s.segs.get g).readable
      && match (s.segs.get g).limit with
         | none => true
         | some l => decide (ea.toNat + n ≤ l.toNat + 1)

/-- R156 (1): #SS(0) through SS, else #GP(0). -/
def segmentExc (g : Seg) : Exc :=
  match g with
  | .ss => .ss
  | .es => .gp
  | .cs => .gp
  | .ds => .gp
  | .fs => .gp
  | .gs => .gp

/-- R162: the page-fault error code of a data read: W/R (bit 1) and I/D (bit 4) are 0, U/S (bit 2) is CPL = 3.
R162 gives bits 4:0 only: that bits 31:5 are 0 is PRESUMED (log 33). -/
def State.pfCode (s : State) (p rsvd : Bool) : BitVec 32 :=
  (if p then 1#32 else 0#32) ||| (if s.env.cpl = 3 then 4#32 else 0#32) ||| (if rsvd then 8#32 else 0#32)

/-- R61: the range that decides the translation of a linear address. -/
def State.pageOf (s : State) (a : Addr) : Option Page :=
  s.pages.find? fun p => decide (p.lo ≤ a.toNat ∧ a.toNat < p.lo + p.size)

/-- R60: the byte at a physical address; one that is not mapped is a page that is not present (D5). -/
def State.physByte (s : State) (i : Nat) : Except (BitVec 32) Byte :=
  match s.mem.read i with
  | some b => .ok b
  | none => .error (s.pfCode false false)

/-- R61: `Translate(a, read, CPL)`: the byte, or the page-fault code. -/
def State.translate (s : State) (a : Addr) : Except (BitVec 32) Byte :=
  match s.pageOf a with
  | none => s.physByte a.toNat
  | some p =>
    match p.kind with
    | .notPresent => .error (s.pfCode false false)
    | .reservedBit => .error (s.pfCode true true)
    | .present phys user =>
      if user = false ∧ s.env.cpl = 3 then .error (s.pfCode true false)
      else s.physByte (phys + (a.toNat - p.lo))

/-- R156 (3), D10: of two bytes that fail to translate, each with its linear address and page-fault code, the one at the
lower address. -/
def lowerFailure (f g : Addr × BitVec 32) : Addr × BitVec 32 := if f.1.toNat ≤ g.1.toNat then f else g

/-- R54, R156 (3): the bytes `k .. k + n - 1` of an operand at `la`, or, where some do not translate, the lowest of their
linear addresses with its page-fault code. -/
def State.readBytes (s : State) (la : Addr) : Nat → Nat → Except (Addr × BitVec 32) (List Byte)
  | _, 0 => .ok []
  | k, n + 1 =>
    match s.translate (s.byteAddr la k), s.readBytes la (k + 1) n with
    | .ok b, .ok bs => .ok (b :: bs)
    | .ok _, .error f => .error f
    | .error c, .ok _ => .error (s.byteAddr la k, c)
    | .error c, .error f => .error (lowerFailure (s.byteAddr la k, c) f)

/-- R52: the three alignment rules of a memory operand. -/
inductive AlignRule where
  /-- row 1: #AC on a multiple of 8 missed, with alignment checking enabled -/
  | mmx
  /-- row 2: #GP on a multiple of 16 missed, always -/
  | sse
  /-- rows 3 to 10: none; with alignment checking enabled a misaligned access is refused (D14) -/
  | vector
deriving DecidableEq, Repr

/-- R52: the address is a multiple of `n`. -/
def aligned (la : Addr) (n : Nat) : Bool := la.toNat % n == 0

/-- R54, R156, R158 (4): `MemRead` of `n` bytes, with its checks in their order: segment or canonical form, the
alignment of row 2, translation, alignment checking. For rows 3 to 10 "misaligned" is
taken as: not a multiple of the bytes read. DESIGN CHOICE (log 12). R156 and R158 rank exceptions only: that #SS, #GP and
#PF come before the refusal of D14, so that only an operand that can be read is refused, is a DESIGN CHOICE (log 31). -/
def State.memRead (s : State) (rule : AlignRule) (g : Seg) (ea : Addr) (n : Nat) :
    Except Stop (List Byte) :=
  let la := s.linearAddr g ea
  if s.segmentOk g ea la n = false then .error (.exc (segmentExc g))
  else if rule = .sse ∧ aligned la 16 = false then .error (.exc .gp)
  else
    match s.readBytes la 0 n with
    | .error (a, c) => .error (.exc (.pf c a))
    | .ok bs =>
      if s.alignmentCheckEnabled = true ∧ rule = .mmx ∧ aligned la 8 = false then .error (.exc .ac)
      else if s.alignmentCheckEnabled = true ∧ rule = .vector ∧ aligned la n = false then
        .error (.refuse .misalignedVector)
      else .ok bs

/-- R8: `MemWrite(addr, n, v)`, on memory addressed without translation; no in-scope instruction calls it (R55). -/
def State.memWrite {w : Nat} (s : State) (addr : Addr) (n : Nat) (v : BitVec w) : State :=
  { s with mem := s.mem.writeBytes addr.toNat (leBytes v n) }

/-! ### The program text -/

/-- Replaces the program text. -/
def State.setText (s : State) (t : ProgramText) : State := { s with text := t }

/-- R186, D8: the bytes of the text from `pc` on. At the end of the text the run has ended; elsewhere
outside it a fetch is refused. -/
def State.fetchBytes (s : State) : Except Refusal (List Byte) :=
  if s.text.base.toNat ≤ s.pc.toNat ∧ s.pc.toNat < s.text.base.toNat + s.text.bytes.length then
    .ok (s.text.bytes.drop (s.pc.toNat - s.text.base.toNat))
  else if s.pc.toNat = s.text.base.toNat + s.text.bytes.length then .error .endOfText
  else .error .fetchOutsideText

end Sys2Proof.Machine
end

