-- ==== Sys2Proof/Machine/Exceptions.lean ====
section
/-! DEFINITION. The control-state and feature conditions of each class of forms (R152 to R155), in the order of R158:
#UD before #NM before #MF. -/

namespace Sys2Proof.Machine

/-- R154: row 1. -/
def State.checkMmx (s : State) : Option Exc :=
  if s.env.cr0EM = true ∨ s.env.hasMMX = false then some .ud
  else if s.env.cr0TS = true then some .nm
  else if s.env.x87ES = true then some .mf
  else none

/-- R152: row 2. -/
def State.checkSse (s : State) : Option Exc :=
  if s.env.cr0EM = true ∨ s.env.cr4OSFXSR = false ∨ s.env.hasSSE2 = false then some .ud
  else if s.env.cr0TS = true then some .nm
  else none

/-- R152: XCR0[2:1] = 11. -/
def State.avxEnabled (s : State) : Bool := s.env.xcr0.extractLsb' 1 2 == 3#2

/-- R155: XCR0[2:1] = 11 and XCR0[7:5] = 111. -/
def State.avx512Enabled (s : State) : Bool := s.avxEnabled && s.env.xcr0.extractLsb' 5 3 == 7#3

/-- R152: rows 3 and 4, with the feature flag of the row. -/
def State.checkVex (s : State) (feature : Bool) : Option Exc :=
  if s.env.cr4OSXSAVE = false ∨ s.avxEnabled = false ∨ feature = false then some .ud
  else if s.env.cr0TS = true then some .nm
  else none

/-- R153, R155: the features of an EVEX form: AVX512F, and AVX512VL below 512 bits. -/
def State.evexFeature (s : State) (vl : Nat) : Bool :=
  s.env.hasAVX512F && (vl == 512 || s.env.hasAVX512VL)

/-- R155: rows 5 to 10; zeroing-masking with no writemask is #UD here too. -/
def State.checkEvex (s : State) (vl : Nat) (e : Evex) : Option Exc :=
  if s.env.cr4OSXSAVE = false ∨ s.avx512Enabled = false ∨ s.evexFeature vl = false
      ∨ e.zeroNoMask = true then some .ud
  else if s.env.cr0TS = true then some .nm
  else none

end Sys2Proof.Machine
end

