-- ==== Sys2Proof/Machine/Operands.lean ====
section
/-! DEFINITION. Operands: register numbers (R77, R87), the effective address and the segment of the memory operand
(R72, R79, R81, R88), and the fetch of the last source (R114, R130). -/

namespace Sys2Proof

open Machine

/-! ### Register numbers -/

/-- R77, R87: a vector register number `hi ++ ext ++ low`. -/
def vecNum (hi ext : Bool) (low : BitVec 3) : BitVec 5 := BitVec.ofBool hi ++ BitVec.ofBool ext ++ low

/-- R77, R87: a vector register number from `vvvv`. -/
def vvvvNum (hi : Bool) (v : BitVec 4) : BitVec 5 := BitVec.ofBool hi ++ v

/-- R79: a general register number `ext ++ low`. -/
def gprNum (ext : Bool) (low : BitVec 3) : BitVec 4 := BitVec.ofBool ext ++ low

/-- R77: DEST of row 1; REX.R is ignored. -/
def Legacy.mmDest (e : Legacy) : BitVec 3 := e.reg

/-- R77: DEST of row 2, `REX.R ++ ModRM.reg`. -/
def Legacy.xmmDest (e : Legacy) : BitVec 5 := vecNum false (rexR e.rex) e.reg

/-- R77: DEST of rows 3 and 4. -/
def Vex.dest (e : Vex) : BitVec 5 := vecNum false e.r e.reg

/-- R77: SRC1 of rows 3 and 4. -/
def Vex.src1 (e : Vex) : BitVec 5 := vvvvNum false e.vvvv

/-- R87: DEST of an EVEX form. -/
def Evex.dest (e : Evex) : BitVec 5 := vecNum e.r2 e.r e.reg

/-- R87: SRC1 of an EVEX form. -/
def Evex.src1 (e : Evex) : BitVec 5 := vvvvNum e.v2 e.vvvv

/-! ### The effective address -/

/-- R79: the address size. -/
inductive AddrSize where
  | a64
  | a32
deriving DecidableEq, Repr

/-- R72, R79: 64 bits in M64, 32 with `67` or in M32. -/
def addrSizeOf (m : Mode) (ps : List LegacyPrefix) : AddrSize :=
  match m with
  | .m64 => if ps.contains .addrSize then .a32 else .a64
  | .m32 => .a32

/-- R79: `v[A-1:0]`, zero-extended to 64 bits. -/
def AddrSize.trunc (a : AddrSize) (v : Addr) : Addr :=
  match a with
  | .a64 => v
  | .a32 => (v.setWidth 32).setWidth 64

/-- R79: `r(n) = x[n][A-1:0]`. -/
def Machine.State.addrReg (s : State) (a : AddrSize) (n : BitVec 4) : Addr := a.trunc (s.gpr n)

/-- R79, R88: the displacement: an 8-bit one is sign-extended and multiplied by `n8`, a 32-bit one sign-extended.
Sums are truncated to the address size by `effAddr`, so extending to 64 bits loses nothing. -/
def Disp.value (n8 : Nat) : Disp → Addr
  | .none => 0#64
  | .d8 d => d.signExtend 64 * BitVec.ofNat 64 n8
  | .d32 d => d.signExtend 64

/-- R78, R79: the scaled index; `X ++ index = 0100` is no index. -/
def Machine.State.scaledIndex (s : State) (a : AddrSize) (x : Bool) (scale : BitVec 2) (index : BitVec 3) : Addr :=
  if gprNum x index = 4#4 then 0#64 else s.addrReg a (gprNum x index) <<< scale.toNat

/-- R79, R81: the effective address. `x` and `b` are the extension bits of the family in use, `n8` the scale of
an 8-bit displacement (R88), `len` the length of the instruction. -/
def Machine.State.effAddr (s : State) (a : AddrSize) (x b : Bool) (n8 len : Nat) : Rm → Addr
  | .reg _ => 0#64
  | .base rm disp => a.trunc (s.addrReg a (gprNum b rm) + disp.value n8)
  | .dispOnly d =>
    match s.mode with
    | .m64 => a.trunc (s.pc + BitVec.ofNat 64 len + d.signExtend 64)
    | .m32 => a.trunc (d.signExtend 64)
  | .sib scale index bs disp =>
    a.trunc (s.addrReg a (gprNum b bs) + s.scaledIndex a x scale index + disp.value n8)
  | .sibNoBase scale index d => a.trunc (s.scaledIndex a x scale index + d.signExtend 64)

/-- R79: the segment where no override stands: SS for a base register 4 or 5, DS otherwise. -/
def defaultSeg (b : Bool) : Rm → Seg
  | .reg _ => .ds
  | .base rm _ => if gprNum b rm = 4#4 ∨ gprNum b rm = 5#4 then .ss else .ds
  | .dispOnly _ => .ds
  | .sib _ _ bs _ => if gprNum b bs = 4#4 ∨ gprNum b bs = 5#4 then .ss else .ds
  | .sibNoBase _ _ _ => .ds

/-- R72: the segment override of a form. -/
def segOverride (ps : List LegacyPrefix) : Option Seg :=
  ps.findSome? fun p =>
    match p with
    | .seg g => some g
    | .addrSize => none
    | .opSize => none
    | .repne => none
    | .rep => none
    | .lock => none

/-- R32, R72, R79: the segment of the memory operand. In M64 an override by ES, CS, SS or DS has no effect,
also on the choice between #SS and #GP. DEDUCED (log 15). -/
def operandSeg (m : Mode) (ps : List LegacyPrefix) (b : Bool) (rm : Rm) : Seg :=
  match segOverride ps with
  | none => defaultSeg b rm
  | some g =>
    match m with
    | .m32 => g
    | .m64 => if g = .fs ∨ g = .gs then g else defaultSeg b rm

/-! ### The memory operand of each family -/

/-- R79: the effective address of a legacy form's memory operand. -/
def Legacy.effAddr (e : Legacy) (s : State) : Addr :=
  s.effAddr (addrSizeOf s.mode e.prefixes) (rexX e.rex) (rexB e.rex) 1 e.len e.rm

/-- R79: the segment of a legacy form's memory operand. -/
def Legacy.seg (e : Legacy) (s : State) : Seg := operandSeg s.mode e.prefixes (rexB e.rex) e.rm

/-- R79: the effective address of a VEX form's memory operand. -/
def Vex.effAddr (e : Vex) (s : State) : Addr :=
  s.effAddr (addrSizeOf s.mode e.prefixes) e.form.x e.form.b 1 e.len e.rm

/-- R79: the segment of a VEX form's memory operand. -/
def Vex.seg (e : Vex) (s : State) : Seg := operandSeg s.mode e.prefixes e.form.b e.rm

/-- R50, R63, R88: the bytes an EVEX form's memory operand reads, which is also its disp8 scale `N`. -/
def Evex.memBytes (es vl : Nat) (e : Evex) : Nat := if e.bcast then es / 8 else vl / 8

/-- R79, R88: the effective address of an EVEX form's memory operand. -/
def Evex.effAddr (es vl : Nat) (e : Evex) (s : State) : Addr :=
  s.effAddr (addrSizeOf s.mode e.prefixes) e.x e.b (e.memBytes es vl) e.len e.rm

/-- R79: the segment of an EVEX form's memory operand. -/
def Evex.seg (e : Evex) (s : State) : Seg := operandSeg s.mode e.prefixes e.b e.rm

/-! ### The last source -/

/-- R114: the last source of row 1: `MM[ModRM.rm]` (REX.B ignored), or 8 bytes of memory. -/
def Legacy.mmSource (e : Legacy) (s : State) : Except Stop (BitVec 64) :=
  match e.rm.asReg with
  | some r => .ok (s.mmAt r)
  | none => (s.memRead .mmx (e.seg s) (e.effAddr s) 8).map (leValue 64)

/-- R114: the last source of row 2: `XMM[REX.B ++ ModRM.rm]`, or 16 aligned bytes of memory. -/
def Legacy.xmmSource (e : Legacy) (s : State) : Except Stop (BitVec 128) :=
  match e.rm.asReg with
  | some r => .ok (s.vec (vecNum false (rexB e.rex) r) 128)
  | none => (s.memRead .sse (e.seg s) (e.effAddr s) 16).map (leValue 128)

/-- R114: the last source of rows 3 and 4: a register, or `vl / 8` bytes of memory. -/
def Vex.source (vl : Nat) (e : Vex) (s : State) : Except Stop (BitVec vl) :=
  match e.rm.asReg with
  | some r => .ok (s.vec (vecNum false e.form.b r) vl)
  | none => (s.memRead .vector (e.seg s) (e.effAddr s) (vl / 8)).map (leValue vl)

/-- R130: one element replicated `n` times. -/
def replicateElem (es vl : Nat) (x : BitVec es) : Nat → BitVec vl
  | 0 => 0#vl
  | j + 1 => setElem (replicateElem es vl x j) es j x

/-- R130: the value that the bytes of an EVEX memory operand stand for: one element for every `j`, or the whole
vector. -/
def Evex.memValue (es vl : Nat) (e : Evex) (bs : List Byte) : BitVec vl :=
  if e.bcast then replicateElem es vl (leValue es bs) (vl / es) else leValue vl bs

/-- R114, R130: SRC2 of an EVEX form: a register, the whole memory operand, or one broadcast element. The whole
operand is read whatever the mask (R64, D16); a broadcast register is refused (D15). -/
def Evex.source (es vl : Nat) (e : Evex) (s : State) : Except Stop (BitVec vl) :=
  match e.rm.asReg with
  | some r =>
    if e.bcast then .error (.refuse (.decode .broadcastRegister))
    else .ok (s.vec (vecNum e.x e.b r) vl)
  | none =>
    (s.memRead .vector (e.seg s) (e.effAddr es vl s) (e.memBytes es vl)).map (e.memValue es vl)

end Sys2Proof
end

