-- ==== Sys2Proof/Machine/Por.lean ====
section
/-! DEFINITION. Rows 1 and 2: the legacy forms of POR (R110, R111). -/

namespace Sys2Proof.Machine

/-- R110, `POR mm, mm/m64`: `MM[d] <- MM[d] | src`, the x87 side effects of R29, `pc <- pc + len`. -/
def execPorMm (e : Legacy) (s : State) : Host.Outcome State Fault Refusal :=
  runForm s s.checkMmx (e.mmSource s) fun src =>
    ((s.setMm e.mmDest (s.mmAt e.mmDest ||| src)).mmxToX87 e.mmDest).advance e.len

/-- R111, `POR xmm1, xmm2/m128`: `ZMM[d][127:0] <- ZMM[d][127:0] | src`, the upper bits unchanged. -/
def execPorXmm (e : Legacy) (s : State) : Host.Outcome State Fault Refusal :=
  runForm s s.checkSse (e.xmmSource s) fun src =>
    (s.setXmmKeep e.xmmDest (s.vec e.xmmDest 128 ||| src)).advance e.len

end Sys2Proof.Machine
end

