-- ==== Sys2Proof/Machine/Vpor.lean ====
section
/-! DEFINITION. Rows 3 and 4: the VEX forms of VPOR (R120 to R122). -/

namespace Sys2Proof.Machine

/-- R120, R121, R122: `ZMM[d][vl-1:0] <- src1 | src2`, `ZMM[d][MAXVL-1:vl] <- 0`, `pc <- pc + len`; both sources are
read before DEST is written. -/
def vexOr (vl : Nat) (feature : Bool) (e : Vex) (s : State) : Host.Outcome State Fault Refusal :=
  runForm s (s.checkVex feature) (e.source vl s) fun src2 =>
    (s.setVecZero e.dest (s.vec e.src1 vl ||| src2)).advance e.len

/-- R120, `VPOR xmm1, xmm2, xmm3/m128`. -/
def execVporXmm (e : Vex) (s : State) : Host.Outcome State Fault Refusal :=
  vexOr 128 s.env.hasAVX e s

/-- R121, `VPOR ymm1, ymm2, ymm3/m256`. -/
def execVporYmm (e : Vex) (s : State) : Host.Outcome State Fault Refusal :=
  vexOr 256 s.env.hasAVX2 e s

end Sys2Proof.Machine
end

