-- ==== Sys2Proof/Machine/Vpordq.lean ====
section
/-! DEFINITION. Rows 5 to 10: the EVEX forms VPORD and VPORQ over the shared algorithm `EvexOr` (R130 to R138). -/

namespace Sys2Proof.Machine

/-- R130: element `j` is written: there is no writemask (aaa = 000), or bit `j` of `K[aaa]` is 1. -/
def evexWrites (e : Evex) (s : State) (j : Nat) : Bool :=
  e.aaa == 0#3 || (s.opmask e.aaa).getLsbD j

/-- R130: the element loop, for `j = 0 .. n-1`: a written element is `src1 | src2`; another one stays as it was under
merging-masking and is 0 under zeroing-masking. -/
def evexLoop {vl : Nat} (es : Nat) (writes : Nat → Bool) (zeroing : Bool) (src1 src2 dest : BitVec vl) :
    Nat → BitVec vl
  | 0 => dest
  | j + 1 =>
    let d := evexLoop es writes zeroing src1 src2 dest j
    if writes j then setElem d es j (elem src1 es j ||| elem src2 es j)
    else if zeroing then setElem d es j (0#es)
    else d

/-- R130: `new`, the value of `DEST[vl-1:0]`; all sources are read from the state before the instruction. -/
def evexResult (es vl : Nat) (e : Evex) (s : State) (src2 : BitVec vl) : BitVec vl :=
  evexLoop es (evexWrites e s) e.z (s.vec e.src1 vl) src2 (s.vec e.dest vl) (vl / es)

/-- R130, `EvexOr(es, vl)`: `ZMM[d][vl-1:0] <- new`, `ZMM[d][MAXVL-1:vl] <- 0`, `pc <- pc + len`. -/
def evexOr (es vl : Nat) (e : Evex) (s : State) : Host.Outcome State Fault Refusal :=
  runForm s (s.checkEvex vl e) (e.source es vl s) fun src2 =>
    (s.setVecZero e.dest (evexResult es vl e s src2)).advance e.len

/-- R131, `VPORD xmm1 (k1)(z), xmm2, xmm3/m128/m32bcst`: `EvexOr(32, 128)`. -/
def execVpordXmm (e : Evex) (s : State) : Host.Outcome State Fault Refusal := evexOr 32 128 e s

/-- R132, `VPORD ymm1 (k1)(z), ymm2, ymm3/m256/m32bcst`: `EvexOr(32, 256)`. -/
def execVpordYmm (e : Evex) (s : State) : Host.Outcome State Fault Refusal := evexOr 32 256 e s

/-- R133, `VPORD zmm1 (k1)(z), zmm2, zmm3/m512/m32bcst`: `EvexOr(32, 512)`. -/
def execVpordZmm (e : Evex) (s : State) : Host.Outcome State Fault Refusal := evexOr 32 512 e s

/-- R134, R138, `VPORQ xmm1 (k1)(z), xmm2, xmm3/m128/m64bcst`: `EvexOr(64, 128)`. -/
def execVporqXmm (e : Evex) (s : State) : Host.Outcome State Fault Refusal := evexOr 64 128 e s

/-- R135, R138, `VPORQ ymm1 (k1)(z), ymm2, ymm3/m256/m64bcst`: `EvexOr(64, 256)`. -/
def execVporqYmm (e : Evex) (s : State) : Host.Outcome State Fault Refusal := evexOr 64 256 e s

/-- R136, R138, `VPORQ zmm1 (k1)(z), zmm2, zmm3/m512/m64bcst`: `EvexOr(64, 512)`. -/
def execVporqZmm (e : Evex) (s : State) : Host.Outcome State Fault Refusal := evexOr 64 512 e s

end Sys2Proof.Machine
end

