-- ==== Sys2Proof/Machine/Dispatch.lean ====
section
/-! DEFINITION. One arm per instruction of the opcode table (R3), each one direct call of its meaning. -/

namespace Sys2Proof.Machine

def exec (i : Instr) (s : State) : Host.Outcome State Fault Refusal :=
  match i with
  -- rows 1 and 2, the legacy forms
  | .porMm e => Sys2Proof.Machine.execPorMm e s
  | .porXmm e => Sys2Proof.Machine.execPorXmm e s
  -- rows 3 and 4, the VEX forms
  | .vporXmm e => Sys2Proof.Machine.execVporXmm e s
  | .vporYmm e => Sys2Proof.Machine.execVporYmm e s
  -- rows 5 to 10, the EVEX forms
  | .vpordXmm e => Sys2Proof.Machine.execVpordXmm e s
  | .vpordYmm e => Sys2Proof.Machine.execVpordYmm e s
  | .vpordZmm e => Sys2Proof.Machine.execVpordZmm e s
  | .vporqXmm e => Sys2Proof.Machine.execVporqXmm e s
  | .vporqYmm e => Sys2Proof.Machine.execVporqYmm e s
  | .vporqZmm e => Sys2Proof.Machine.execVporqZmm e s

end Sys2Proof.Machine
end

