-- ==== Sys2Proof/Machine/Step.lean ====
section
/-! DEFINITION. One step of the machine (R25, R91, R186): fetch the bytes at `pc`, decode them, run the instruction. -/

namespace Sys2Proof.Machine

/-- R186: a step runs the instruction whose bytes stand at `pc`; a decode-time #UD (R92) is a fault, a refusal of the
fetch or of the decoder is a refusal. -/
def step (s : State) : Host.Outcome State Fault Refusal :=
  match s.fetchBytes with
  | .error r => .refused r
  | .ok bytes =>
    match decode s.mode bytes with
    | .instr i => exec i s
    | .ud => .fault (takeException .ud s)
    | .refused why => .refused (.decode why)

/-- The state whose program text is that one instruction of the opcode table, at `pc` (log 6, log 18). -/
def State.withFetchWord (s : State) (nbits w : Nat) : State :=
  s.setText { base := s.pc, bytes := tableBytes s.mode nbits w }

end Sys2Proof.Machine
end

