-- ==== Sys2Proof/Safety.lean ====
section
/-! DEFINITION. The terms the statements use: the invariants, what a run leaves alone, when a form is enabled, when a
memory operand can be read, and how a run ends. -/

namespace Sys2Proof.Machine

/-! ### Invariants -/

/-- 2 to the width of an address in a mode: 64 bits in M64, 32 in M32 (R25, R30). -/
def addrSpace : Mode → Nat
  | .m64 => 2 ^ 64
  | .m32 => 2 ^ 32

/-- The memory has its canonical form, and `pc` is an address of the mode (R25). -/
def Inv (s : State) : Prop := Memory.wf s.mem = true ∧ s.pc.toNat < addrSpace s.mode

/-- R186: `pc` is in the program text or just past its last byte, and the text lies in the address space. -/
def WithinText (s : State) : Prop :=
  s.text.base.toNat ≤ s.pc.toNat ∧ s.pc.toNat ≤ s.text.base.toNat + s.text.bytes.length
    ∧ s.text.base.toNat + s.text.bytes.length < addrSpace s.mode

/-- R186: a run ends successfully when `pc` is just past the last byte of the text. -/
def RunEnded (s : State) : Prop := s.pc.toNat = s.text.base.toNat + s.text.bytes.length

/-! ### Frames -/

/-- R34: the parameters of the step relation. -/
def SameParams (s t : State) : Prop :=
  t.mode = s.mode ∧ t.env = s.env ∧ t.linearWidth = s.linearWidth ∧ t.segs = s.segs ∧ t.pages = s.pages
    ∧ t.text = s.text

/-- Every byte of memory reads as it did (R55). -/
def SameMemory (s t : State) : Prop := ∀ a, Memory.read t.mem a = Memory.read s.mem a

/-- What no in-scope instruction writes: the parameters, the flags, the general and opmask registers, CR2 and
memory. -/
def Untouched (s t : State) : Prop :=
  SameParams s t ∧ t.rflags = s.rflags ∧ t.x = s.x ∧ t.k = s.k ∧ t.cr2 = s.cr2 ∧ SameMemory s t

/-- Nothing but `ZMM[d]` and `pc` differs. -/
def OnlyVecAndPc (d : BitVec 5) (s t : State) : Prop :=
  Untouched s t ∧ t.mm = s.mm ∧ t.x87 = s.x87 ∧ ∀ r, r ≠ d → t.zmmAt r = s.zmmAt r

/-- Bits 79:64 of the x87 data register `n` (R29). -/
def State.x87Hi (s : State) (n : BitVec 3) : BitVec 16 := s.x87.hi[n.toNat]'(by have := n.isLt; omega)

/-- Nothing but `MM[d]`, the x87 top-of-stack, tags and bits 79:64 of register `d`, and `pc` differs. -/
def OnlyMmAndPc (d : BitVec 3) (s t : State) : Prop :=
  Untouched s t ∧ t.zmm = s.zmm ∧ ∀ r, r ≠ d → t.mmAt r = s.mmAt r ∧ t.x87Hi r = s.x87Hi r

/-- R25: `t` stands `len` bytes further than `s`, in the mode's width. -/
def AdvancedBy (len : Nat) (s t : State) : Prop :=
  t.pc.toNat = (s.pc.toNat + len) % addrSpace s.mode

/-! ### When a form is enabled (R152 to R155) -/

/-- R154: row 1. -/
def MmxEnabled (s : State) : Prop :=
  s.env.cr0EM = false ∧ s.env.hasMMX = true ∧ s.env.cr0TS = false ∧ s.env.x87ES = false

/-- R152: row 2. -/
def SseEnabled (s : State) : Prop :=
  s.env.cr0EM = false ∧ s.env.cr4OSFXSR = true ∧ s.env.hasSSE2 = true ∧ s.env.cr0TS = false

/-- R152: rows 3 and 4 but for the feature flag. -/
def VexEnabled (s : State) : Prop :=
  s.env.cr4OSXSAVE = true ∧ s.env.xcr0.getLsbD 1 = true ∧ s.env.xcr0.getLsbD 2 = true ∧ s.env.cr0TS = false

/-- R155: rows 5 to 10 with vector length `vl`. -/
def EvexEnabled (vl : Nat) (s : State) : Prop :=
  VexEnabled s ∧ s.env.xcr0.getLsbD 5 = true ∧ s.env.xcr0.getLsbD 6 = true ∧ s.env.xcr0.getLsbD 7 = true
    ∧ s.env.hasAVX512F = true ∧ (vl = 512 ∨ s.env.hasAVX512VL = true)

/-- R152 to R155: no control-state or feature condition stops the instruction. -/
def Enabled (i : Instr) (s : State) : Prop :=
  match i with
  | .porMm _ => MmxEnabled s
  | .porXmm _ => SseEnabled s
  | .vporXmm _ => VexEnabled s ∧ s.env.hasAVX = true
  | .vporYmm _ => VexEnabled s ∧ s.env.hasAVX2 = true
  | .vpordXmm e => EvexEnabled 128 s ∧ e.zeroNoMask = false
  | .vpordYmm e => EvexEnabled 256 s ∧ e.zeroNoMask = false
  | .vpordZmm e => EvexEnabled 512 s ∧ e.zeroNoMask = false
  | .vporqXmm e => EvexEnabled 128 s ∧ e.zeroNoMask = false
  | .vporqYmm e => EvexEnabled 256 s ∧ e.zeroNoMask = false
  | .vporqZmm e => EvexEnabled 512 s ∧ e.zeroNoMask = false

/-! ### The memory operand -/

/-- R50: the last operand of an instruction. -/
def lastOperand : Instr → Rm
  | .porMm e => e.rm
  | .porXmm e => e.rm
  | .vporXmm e => e.rm
  | .vporYmm e => e.rm
  | .vpordXmm e => e.rm
  | .vpordYmm e => e.rm
  | .vpordZmm e => e.rm
  | .vporqXmm e => e.rm
  | .vporqYmm e => e.rm
  | .vporqZmm e => e.rm

/-- R52: the alignment rule of an instruction. -/
def alignRule : Instr → AlignRule
  | .porMm _ => .mmx
  | .porXmm _ => .sse
  | .vporXmm _ => .vector
  | .vporYmm _ => .vector
  | .vpordXmm _ => .vector
  | .vpordYmm _ => .vector
  | .vpordZmm _ => .vector
  | .vporqXmm _ => .vector
  | .vporqYmm _ => .vector
  | .vporqZmm _ => .vector

/-- R50: how many bytes the memory operand of an instruction has. -/
def operandBytes : Instr → Nat
  | .porMm _ => 8
  | .porXmm _ => 16
  | .vporXmm _ => 16
  | .vporYmm _ => 32
  | .vpordXmm e => if e.bcast then 4 else 16
  | .vpordYmm e => if e.bcast then 4 else 32
  | .vpordZmm e => if e.bcast then 4 else 64
  | .vporqXmm e => if e.bcast then 8 else 16
  | .vporqYmm e => if e.bcast then 8 else 32
  | .vporqZmm e => if e.bcast then 8 else 64

/-- R79: the effective address of the memory operand of an instruction. -/
def operandEA (i : Instr) (s : State) : Addr :=
  match i with
  | .porMm e => e.effAddr s
  | .porXmm e => e.effAddr s
  | .vporXmm e => e.effAddr s
  | .vporYmm e => e.effAddr s
  | .vpordXmm e => e.effAddr 32 128 s
  | .vpordYmm e => e.effAddr 32 256 s
  | .vpordZmm e => e.effAddr 32 512 s
  | .vporqXmm e => e.effAddr 64 128 s
  | .vporqYmm e => e.effAddr 64 256 s
  | .vporqZmm e => e.effAddr 64 512 s

/-- R32, R79: the segment of the memory operand of an instruction. -/
def operandSegment (i : Instr) (s : State) : Seg :=
  match i with
  | .porMm e => e.seg s
  | .porXmm e => e.seg s
  | .vporXmm e => e.seg s
  | .vporYmm e => e.seg s
  | .vpordXmm e => e.seg s
  | .vpordYmm e => e.seg s
  | .vpordZmm e => e.seg s
  | .vporqXmm e => e.seg s
  | .vporqYmm e => e.seg s
  | .vporqZmm e => e.seg s

/-- R53: the linear address of the memory operand of an instruction. -/
def operandLA (i : Instr) (s : State) : Addr := s.linearAddr (operandSegment i s) (operandEA i s)

/-- R156 (1): the segment and canonical-form check of the memory operand passes. -/
def OperandInSegment (i : Instr) (s : State) : Prop :=
  s.segmentOk (operandSegment i s) (operandEA i s) (operandLA i s) (operandBytes i) = true

/-- R54, R156: the memory operand of `i` can be read, and byte `k` of it is `f k`: its segment check passes, row 2's
address is a multiple of 16, every byte translates, and alignment checking finds nothing. -/
def OperandReads (i : Instr) (s : State) (f : Nat → Byte) : Prop :=
  OperandInSegment i s
    ∧ (alignRule i = .sse → (operandLA i s).toNat % 16 = 0)
    ∧ (∀ k, k < operandBytes i → s.translate (s.byteAddr (operandLA i s) k) = .ok (f k))
    ∧ (s.alignmentCheckEnabled = true → alignRule i = .mmx → (operandLA i s).toNat % 8 = 0)
    ∧ (s.alignmentCheckEnabled = true → alignRule i = .vector →
        (operandLA i s).toNat % operandBytes i = 0)

/-- R51: bit `n` of the little-endian value of the bytes `f`. -/
def byteBit (f : Nat → Byte) (n : Nat) : Bool := (f (n / 8)).getLsbD (n % 8)

/-- R130: bit `n` of `ZMM[d]` after an EVEX form: inside the vector length the element's mask decides between the OR,
the old bit and 0; above it the bit is 0. `src2` is SRC2 by bit. -/
def evexBit (es vl : Nat) (e : Evex) (s : State) (src2 : Nat → Bool) (n : Nat) : Bool :=
  if n < vl then
    if e.aaa = 0#3 ∨ (s.opmask e.aaa).getLsbD (n / es) = true then (s.zmmAt e.src1).getLsbD n || src2 n
    else if e.z = true then false
    else (s.zmmAt e.dest).getLsbD n
  else false

/-! ### Two machines that a 32-bit program cannot tell apart -/

/-- R21, R24: in M32 only vector registers 0 to 7 and the low halves of general registers 0 to 7 exist. -/
def SameIn32 (s t : State) : Prop :=
  s.mode = .m32 ∧ SameParams s t ∧ t.rflags = s.rflags ∧ t.mm = s.mm ∧ t.x87 = s.x87 ∧ t.k = s.k ∧ t.pc = s.pc
    ∧ t.mem = s.mem
    ∧ (∀ r : BitVec 5, r.toNat < 8 → t.zmmAt r = s.zmmAt r)
    ∧ (∀ r : BitVec 4, r.toNat < 8 → (t.gpr r).setWidth 32 = (s.gpr r).setWidth 32)

/-- Two outcomes match: both next, related by `R`, or the same fault, or the same refusal. -/
def OutcomesMatch (R : State → State → Prop) :
    Host.Outcome State Fault Refusal → Host.Outcome State Fault Refusal → Prop
  | .next s, .next t => R s t
  | .fault f, .fault g => f = g
  | .refused p, .refused q => p = q
  | .next _, .fault _ => False
  | .next _, .refused _ => False
  | .fault _, .next _ => False
  | .fault _, .refused _ => False
  | .refused _, .next _ => False
  | .refused _, .fault _ => False

end Sys2Proof.Machine
end

