-- ==== Sys2Proof/Certificates/Slice0/Obligations.lean ====
section
/-! DEFINITION. The statements for the provers, each after a rule of the spec. The helpers under `Sys2Proof.Claims` say one
thing of several instructions of one shape. -/

namespace Sys2Proof.Claims

open Sys2Proof.Machine

/-- What a VEX form with a register source leaves (R120 to R122): bits `vl-1:0` of DEST are the OR of the sources, the bits
above are 0. -/
def vexRegister (vl : Nat) (feature : State → Bool) (mk : Vex → Instr) : Prop :=
  ∀ (e : Vex) (s : State) (r : BitVec 3), VexEnabled s → feature s = true → e.rm = .reg r →
    ∃ t, exec (mk e) s = .next t ∧ OnlyVecAndPc e.dest s t ∧ AdvancedBy e.len s t ∧
      ∀ n, (t.zmmAt e.dest).getLsbD n =
        (decide (n < vl) && ((s.zmmAt e.src1).getLsbD n || (s.zmmAt (vecNum false e.form.b r)).getLsbD n))

/-- The same with a memory source whose bytes are `f`. -/
def vexMemory (vl : Nat) (feature : State → Bool) (mk : Vex → Instr) : Prop :=
  ∀ (e : Vex) (s : State) (f : Nat → Byte), VexEnabled s → feature s = true → e.rm.isMem = true →
    OperandReads (mk e) s f →
    ∃ t, exec (mk e) s = .next t ∧ OnlyVecAndPc e.dest s t ∧ AdvancedBy e.len s t ∧
      ∀ n, (t.zmmAt e.dest).getLsbD n = (decide (n < vl) && ((s.zmmAt e.src1).getLsbD n || byteBit f n))

/-- What an EVEX form with a register source leaves (R130): each bit of DEST by `evexBit`. -/
def evexRegister (es vl : Nat) (mk : Evex → Instr) : Prop :=
  ∀ (e : Evex) (s : State) (r : BitVec 3), EvexEnabled vl s → e.zeroNoMask = false → e.bcast = false →
    e.rm = .reg r →
    ∃ t, exec (mk e) s = .next t ∧ OnlyVecAndPc e.dest s t ∧ AdvancedBy e.len s t ∧
      ∀ n, (t.zmmAt e.dest).getLsbD n =
        evexBit es vl e s (fun i => (s.zmmAt (vecNum e.x e.b r)).getLsbD i) n

/-- The same with a full-width memory source whose bytes are `f`. -/
def evexMemory (es vl : Nat) (mk : Evex → Instr) : Prop :=
  ∀ (e : Evex) (s : State) (f : Nat → Byte), EvexEnabled vl s → e.zeroNoMask = false → e.bcast = false →
    e.rm.isMem = true → OperandReads (mk e) s f →
    ∃ t, exec (mk e) s = .next t ∧ OnlyVecAndPc e.dest s t ∧ AdvancedBy e.len s t ∧
      ∀ n, (t.zmmAt e.dest).getLsbD n = evexBit es vl e s (byteBit f) n

/-- The same with one broadcast element whose bytes are `f`: bit `n` of SRC2 is bit `n % es` of the element. -/
def evexBroadcast (es vl : Nat) (mk : Evex → Instr) : Prop :=
  ∀ (e : Evex) (s : State) (f : Nat → Byte), EvexEnabled vl s → e.zeroNoMask = false → e.bcast = true →
    e.rm.isMem = true → OperandReads (mk e) s f →
    ∃ t, exec (mk e) s = .next t ∧ OnlyVecAndPc e.dest s t ∧ AdvancedBy e.len s t ∧
      ∀ n, (t.zmmAt e.dest).getLsbD n = evexBit es vl e s (fun i => byteBit f (i % es)) n

/-- Opmask bits at or above `kl`, and all opmask bits where aaa = 000, do not matter (R137 items 2 and 3). -/
def ignoresHighMask (kl : Nat) (mk : Evex → Instr) : Prop :=
  ∀ (e : Evex) (s : State) (k' : Vector (BitVec Config.kw) 8),
    (e.aaa ≠ 0#3 → ∀ j, j < kl →
      (State.opmask { s with k := k' } e.aaa).getLsbD j = (s.opmask e.aaa).getLsbD j) →
    OutcomesMatch (fun a b => b = { a with k := k' }) (exec (mk e) s) (exec (mk e) { s with k := k' })

/-- The control-state traps of a VEX form (R152): #UD before #NM. -/
def vexTraps (feature : State → Bool) (mk : Vex → Instr) : Prop :=
  ∀ (e : Vex) (s : State),
    ((s.env.cr4OSXSAVE = false ∨ s.env.xcr0.getLsbD 1 = false ∨ s.env.xcr0.getLsbD 2 = false ∨ feature s = false) →
      exec (mk e) s = .fault (.invalidOpcode s.pc)) ∧
    (s.env.cr4OSXSAVE = true → s.env.xcr0.getLsbD 1 = true → s.env.xcr0.getLsbD 2 = true → feature s = true →
      s.env.cr0TS = true → exec (mk e) s = .fault (.deviceNotAvailable s.pc))

/-- The control-state traps of an EVEX form (R155): #UD before #NM. -/
def evexTraps (vl : Nat) (mk : Evex → Instr) : Prop :=
  ∀ (e : Evex) (s : State),
    ((s.env.cr4OSXSAVE = false ∨ (∃ b ∈ [1, 2, 5, 6, 7], s.env.xcr0.getLsbD b = false) ∨
        s.env.hasAVX512F = false ∨ (vl ≠ 512 ∧ s.env.hasAVX512VL = false) ∨ (e.z = true ∧ e.aaa = 0#3)) →
      exec (mk e) s = .fault (.invalidOpcode s.pc)) ∧
    (s.env.cr4OSXSAVE = true → (∀ b ∈ [1, 2, 5, 6, 7], s.env.xcr0.getLsbD b = true) →
      s.env.hasAVX512F = true → (vl = 512 ∨ s.env.hasAVX512VL = true) → (e.z = false ∨ e.aaa ≠ 0#3) →
      s.env.cr0TS = true → exec (mk e) s = .fault (.deviceNotAvailable s.pc))

/-- The fault of a memory operand outside its segment (R156): #SS(0) through SS, else #GP(0). -/
def segmentFault (g : Seg) (pc : Addr) : Fault :=
  if g = .ss then .stackFault pc 0#32 else .generalProtection pc 0#32

/-- R79: the displacement as an integer, an 8-bit one times `n8`. -/
def dispInt (n8 : Nat) : Disp → Int
  | .none => 0
  | .d8 d => d.toInt * n8
  | .d32 d => d.toInt

/-- R79: the number of addresses of an address size. -/
def addrMod : AddrSize → Nat
  | .a64 => 2 ^ 64
  | .a32 => 2 ^ 32

/-- R79: `r(n)` as a number. -/
def regNat (s : State) (a : AddrSize) (n : BitVec 4) : Nat := (s.gpr n).toNat % addrMod a

/-- R79: the scaled index as a number; register number 4 is no index. -/
def indexNat (s : State) (a : AddrSize) (x : Bool) (scale : BitVec 2) (index : BitVec 3) : Nat :=
  if (gprNum x index).toNat = 4 then 0 else regNat s a (gprNum x index) * 2 ^ scale.toNat

/-- R79: the effective address as an integer before truncation. -/
def eaInt (s : State) (a : AddrSize) (x b : Bool) (n8 len : Nat) : Rm → Int
  | .reg _ => 0
  | .base rm disp => (regNat s a (gprNum b rm) : Int) + dispInt n8 disp
  | .dispOnly d =>
    match s.mode with
    | .m64 => (s.pc.toNat : Int) + len + d.toInt
    | .m32 => d.toInt
  | .sib scale index bs disp =>
    (regNat s a (gprNum b bs) : Int) + indexNat s a x scale index + dispInt n8 disp
  | .sibNoBase scale index d => (indexNat s a x scale index : Int) + d.toInt

/-- R90: the shortest encoding of each row. -/
def shortest : Instr → Nat
  | .porMm _ => 3
  | .porXmm _ => 4
  | .vporXmm _ => 4
  | .vporYmm _ => 4
  | .vpordXmm _ => 6
  | .vpordYmm _ => 6
  | .vpordZmm _ => 6
  | .vporqXmm _ => 6
  | .vporqYmm _ => 6
  | .vporqZmm _ => 6

/-- R88: the factor `N` of an 8-bit displacement: 1 outside the EVEX family, else the table of R88. -/
def disp8Factor : Instr → Nat
  | .porMm _ => 1
  | .porXmm _ => 1
  | .vporXmm _ => 1
  | .vporYmm _ => 1
  | .vpordXmm e => if e.bcast then 4 else 16
  | .vpordYmm e => if e.bcast then 4 else 32
  | .vpordZmm e => if e.bcast then 4 else 64
  | .vporqXmm e => if e.bcast then 8 else 16
  | .vporqYmm e => if e.bcast then 8 else 32
  | .vporqZmm e => if e.bcast then 8 else 64

/-- R77, R79, R87: the extension bit of the base register of an instruction. -/
def baseExt : Instr → Bool
  | .porMm e => rexB e.rex
  | .porXmm e => rexB e.rex
  | .vporXmm e => e.form.b
  | .vporYmm e => e.form.b
  | .vpordXmm e => e.b
  | .vpordYmm e => e.b
  | .vpordZmm e => e.b
  | .vporqXmm e => e.b
  | .vporqYmm e => e.b
  | .vporqZmm e => e.b

/-- R78, R79, R87: the extension bit of the index register of an instruction. -/
def indexExt : Instr → Bool
  | .porMm e => rexX e.rex
  | .porXmm e => rexX e.rex
  | .vporXmm e => e.form.x
  | .vporYmm e => e.form.x
  | .vpordXmm e => e.x
  | .vpordYmm e => e.x
  | .vpordZmm e => e.x
  | .vporqXmm e => e.x
  | .vporqYmm e => e.x
  | .vporqZmm e => e.x

/-- R162: the page-fault error code of a read of `a`: bits 1 (W/R) and 4 (I/D) are 0, bit 2 (U/S) is 1 exactly when
CPL = 3, bit 3 (RSVD) is 1 where a reserved bit was set, bit 0 (P) is 0 for a page that is not present and 1 for a
protection violation. -/
def pageFaultCode (s : State) (a : Addr) (c : BitVec 32) : Prop :=
  c.getLsbD 1 = false ∧ c.getLsbD 4 = false ∧ (c.getLsbD 2 = true ↔ s.env.cpl = 3) ∧
  (c.getLsbD 3 = true ↔ ∃ p, s.pageOf a = some p ∧ p.kind = .reservedBit) ∧
  ((∃ p, s.pageOf a = some p ∧ p.kind = .notPresent) → c.getLsbD 0 = false) ∧
  ((∃ p phys, s.pageOf a = some p ∧ p.kind = .present phys false ∧ s.env.cpl = 3) → c.getLsbD 0 = true)

/-- R61: the linear addresses that a range of `Translate` decides. -/
def inPage (p : Page) (a : Addr) : Prop := p.lo ≤ a.toNat ∧ a.toNat < p.lo + p.size

/-- R162: the page-fault code whose only set bit can be bit 2 (U/S). That bits 31:5 are 0 is PRESUMED (log 33). -/
def usBit (s : State) : BitVec 32 := if s.env.cpl = 3 then 4#32 else 0#32

/-- R60: the byte of data memory at `i` answers for the linear address `a`; where none is mapped there, the page fault of
a page that is not present does (log 5). -/
def answersFrom (s : State) (a : Addr) (i : Nat) : Prop :=
  (∀ b, Memory.read s.mem i = some b → s.translate a = .ok b) ∧
  (Memory.read s.mem i = none → s.translate a = .error (usBit s))

/-- R65: every bit of an address from the top bit of the linear width on equals bit 63. -/
def bitsAllEqual (w : LinearWidth) (a : Addr) : Prop :=
  ∀ j, linearBits w - 1 ≤ j → j < 63 → a.getLsbD j = a.getLsbD 63

/-- R153: the processor reports the feature flags of the instruction's row. -/
def featureFlags (v : Env) : Instr → Bool
  | .porMm _ => v.hasMMX
  | .porXmm _ => v.hasSSE2
  | .vporXmm _ => v.hasAVX
  | .vporYmm _ => v.hasAVX2
  | .vpordXmm _ => v.hasAVX512VL && v.hasAVX512F
  | .vpordYmm _ => v.hasAVX512VL && v.hasAVX512F
  | .vpordZmm _ => v.hasAVX512F
  | .vporqXmm _ => v.hasAVX512VL && v.hasAVX512F
  | .vporqYmm _ => v.hasAVX512VL && v.hasAVX512F
  | .vporqZmm _ => v.hasAVX512F

/-- R72: the legacy bytes of an instruction. -/
def prefixesOf : Instr → List LegacyPrefix
  | .porMm e => e.prefixes
  | .porXmm e => e.prefixes
  | .vporXmm e => e.prefixes
  | .vporYmm e => e.prefixes
  | .vpordXmm e => e.prefixes
  | .vpordYmm e => e.prefixes
  | .vpordZmm e => e.prefixes
  | .vporqXmm e => e.prefixes
  | .vporqYmm e => e.prefixes
  | .vporqZmm e => e.prefixes

/-- The bytes of the program text from `pc` on. -/
def bytesAtPc (s : State) : List Byte := s.text.bytes.drop (s.pc.toNat - s.text.base.toNat)

end Sys2Proof.Claims

open Sys2Proof Sys2Proof.Machine Sys2Proof.Claims

/-! ### Encoding -/

/-- Decoding the encoding of a well-formed instruction, whatever bytes follow, gives the instruction back (R70 to R91). -/
def Obligations.DecodeOfEncode : Prop :=
  ∀ (m : Mode) (i : Instr) (rest : List Byte), WellFormed m i → decode m (encode i ++ rest) = .instr i

/-- Bytes that decode to an instruction begin with exactly that instruction's encoding, and it is well formed. -/
def Obligations.DecodedBytesAreTheEncoding : Prop :=
  ∀ (m : Mode) (bs : List Byte) (i : Instr), decode m bs = .instr i →
    WellFormed m i ∧ ∃ rest, bs = encode i ++ rest

/-- R90: an encoding has the length of R90, at least the shortest of its row and at most 13 bytes. -/
def Obligations.EncodingLengthBounds : Prop :=
  ∀ (m : Mode) (i : Instr), WellFormed m i →
    (encode i).length = i.len ∧ shortest i ≤ i.len ∧ i.len ≤ 13

/-- Words written out from the spec's encodings (spec/95) decode to the instructions they stand for. -/
def Obligations.SampleWordsDecode : Prop :=
  decode .m64 [0x0F#8, 0xEB#8, 0xC1#8] = .instr (.porMm ⟨[], none, 0#3, .reg 1#3⟩) ∧
  decode .m64 [0x66#8, 0x44#8, 0x0F#8, 0xEB#8, 0xCA#8]
    = .instr (.porXmm ⟨[.opSize], some ⟨false, true, false, false⟩, 1#3, .reg 2#3⟩) ∧
  decode .m64 [0xC5#8, 0xE9#8, 0xEB#8, 0xCB#8] = .instr (.vporXmm ⟨[], .two, false, 2#4, 1#3, .reg 3#3⟩) ∧
  decode .m64 [0xC5#8, 0xF5#8, 0xEB#8, 0xC2#8] = .instr (.vporYmm ⟨[], .two, false, 1#4, 0#3, .reg 2#3⟩) ∧
  decode .m64 [0x62#8, 0xF1#8, 0x6D#8, 0x1A#8, 0xEB#8, 0x08#8]
    = .instr (.vpordXmm ⟨[], false, false, false, false, 2#4, false, false, true, 2#3, 1#3, .base 0#3 .none⟩) ∧
  decode .m64 [0x62#8, 0x01#8, 0x95#8, 0x47#8, 0xEB#8, 0xF4#8]
    = .instr (.vporqZmm ⟨[], true, true, true, true, 13#4, true, false, false, 7#3, 6#3, .reg 4#3⟩)

/-- R91 step 3, R92: before `0F EB`, with or without a REX byte between in M64, LOCK raises #UD; without LOCK, `F2` or `F3` is
refused. The bytes after `0F EB` are arbitrary. That these answers come before what step 5 of R91 would say (missing bytes,
and in M32 the refusal of `67`, D3) is the model's order, DEDUCED (log 17), not a rule of the spec. -/
def Obligations.LockBeforeLegacyIsUd : Prop :=
  ∀ (m : Mode) (ps : List LegacyPrefix) (rest : List Byte), prefixGroupsDistinct ps = true →
    (LegacyPrefix.lock ∈ ps → decode m (prefixBytes ps ++ 0x0F#8 :: 0xEB#8 :: rest) = .ud ∧
      ∀ r : Rex, decode .m64 (prefixBytes ps ++ r.byte :: 0x0F#8 :: 0xEB#8 :: rest) = .ud) ∧
    (LegacyPrefix.lock ∉ ps → (LegacyPrefix.repne ∈ ps ∨ LegacyPrefix.rep ∈ ps) →
      decode m (prefixBytes ps ++ 0x0F#8 :: 0xEB#8 :: rest) = .refused .repBeforeLegacy ∧
      ∀ r : Rex, decode .m64 (prefixBytes ps ++ r.byte :: 0x0F#8 :: 0xEB#8 :: rest) = .refused .repBeforeLegacy)

/-- R91 step 4, R92: `66`, `F2`, `F3` or `F0` before `C5`, `C4` or `62` and a payload raises #UD. The bytes after the
payload are arbitrary: step 4 of R91 names this #UD before it asks for map, `pp` and opcode. That the #UD therefore comes
before the map, the opcode, the reserved EVEX values, the M32 register bits (D24) and the `67` of M32 (D3), also where the
bytes would be no form of rows 3 to 10, is the model's reading of that order, DEDUCED (log 17). -/
def Obligations.BadPrefixBeforeVexIsUd : Prop :=
  ∀ (m : Mode) (ps : List LegacyPrefix) (p0 p1 p2 : Byte) (rest : List Byte), prefixGroupsDistinct ps = true →
    (∃ p ∈ ps, p = .opSize ∨ p = .repne ∨ p = .rep ∨ p = .lock) →
    (m = .m64 ∨ p0.extractLsb' 6 2 = 3#2) →
    decode m (prefixBytes ps ++ 0xC5#8 :: p0 :: rest) = .ud ∧
    decode m (prefixBytes ps ++ 0xC4#8 :: p0 :: p1 :: rest) = .ud ∧
    decode m (prefixBytes ps ++ 0x62#8 :: p0 :: p1 :: p2 :: rest) = .ud

/-- R91 step 2, R92: a REX byte before a VEX or EVEX form raises #UD, whatever legacy bytes stand before the REX byte. That
the bytes after REX are looked at apart from those legacy bytes is DEDUCED (log 17). Of EVEX bytes with a reserved value
after a REX byte, which the model refuses (log 32), it says nothing. -/
def Obligations.RexBeforeVexIsUd : Prop :=
  ∀ (ps : List LegacyPrefix) (r : Rex) (i : Instr) (rest : List Byte), prefixGroupsDistinct ps = true →
    WellFormed .m64 i →
    ((encode i).head? = some 0xC5#8 ∨ (encode i).head? = some 0xC4#8 ∨ (encode i).head? = some 0x62#8) →
    decode .m64 (prefixBytes ps ++ r.byte :: (encode i ++ rest)) = .ud

/-- R91 step 4, R92: the reserved values of an EVEX form raise #UD: P0[3:2] other than 00 or P1[2] = 0; L'L = 11; z = 1 with
aaa = 000. The bytes after the opcode, and in the first clause after the payload, are arbitrary. That in M32 this #UD comes
before the refusal of bits that name registers above 7 (D24, R94) is the model's order, DEDUCED (log 17), not a rule of
the spec. -/
def Obligations.ReservedEvexIsUd : Prop :=
  ∀ (m : Mode) (p0 p1 p2 : Byte) (rest : List Byte), (m = .m64 ∨ p0.extractLsb' 6 2 = 3#2) →
    ((p0.extractLsb' 2 2 ≠ 0#2 ∨ p1.getLsbD 2 = false) → decode m (0x62#8 :: p0 :: p1 :: p2 :: rest) = .ud) ∧
    (p0.extractLsb' 0 4 = 1#4 → p1.extractLsb' 0 3 = 5#3 →
      (p2.extractLsb' 5 2 = 3#2 ∨ (p2.getLsbD 7 = true ∧ p2.extractLsb' 0 3 = 0#3)) →
      decode m (0x62#8 :: p0 :: p1 :: p2 :: 0xEB#8 :: rest) = .ud)

/-- R92: EVEX.b = 1 with mod = 11 is refused. -/
def Obligations.BroadcastRegisterIsRefused : Prop :=
  ∀ (p0 p1 p2 modrm : Byte) (rest : List Byte), p0.extractLsb' 0 4 = 1#4 → p1.extractLsb' 0 3 = 5#3 →
    p2.extractLsb' 5 2 ≠ 3#2 → (p2.getLsbD 7 = false ∨ p2.extractLsb' 0 3 ≠ 0#3) → p2.getLsbD 4 = true →
    modrm.extractLsb' 6 2 = 3#2 →
    decode .m64 (0x62#8 :: p0 :: p1 :: p2 :: 0xEB#8 :: modrm :: rest) = .refused .broadcastRegister

/-- R84: VEX.W of rows 3 and 4 is ignored. -/
def Obligations.VexWIsIgnored : Prop :=
  ∀ (e : Vex) (x b : Bool) (s : State),
    exec (.vporXmm { e with form := .three x b true }) s = exec (.vporXmm { e with form := .three x b false }) s ∧
    exec (.vporYmm { e with form := .three x b true }) s = exec (.vporYmm { e with form := .three x b false }) s

/-! ### Steps and runs -/

/-- R91, R186: when the bytes at `pc` decode to an instruction, the step runs that instruction. -/
def Obligations.StepRunsDecoded : Prop :=
  ∀ (s : State) (i : Instr), s.text.base.toNat ≤ s.pc.toNat → decode s.mode (bytesAtPc s) = .instr i →
    step s = exec i s

/-- R94, R186: what a step does where no instruction decodes: #UD, a refusal by name, the end of the run. R186 has a run end
just past the text "after a completed instruction"; that a state there ends also where no instruction has completed, and
the refusal of a fetch elsewhere outside the text, are the model's choice, DESIGN CHOICE (log 23). -/
def Obligations.StepStopsAsDecoded : Prop :=
  ∀ (s : State),
    (s.text.base.toNat ≤ s.pc.toNat → decode s.mode (bytesAtPc s) = .ud →
      step s = .fault (.invalidOpcode s.pc)) ∧
    (∀ why, s.text.base.toNat ≤ s.pc.toNat → s.pc.toNat < s.text.base.toNat + s.text.bytes.length →
      decode s.mode (bytesAtPc s) = .refused why → step s = .refused (.decode why)) ∧
    (RunEnded s → step s = .refused .endOfText) ∧
    (s.pc.toNat < s.text.base.toNat ∨ s.text.base.toNat + s.text.bytes.length < s.pc.toNat →
      step s = .refused .fetchOutsideText)

/-- Every step keeps the canonical form of memory and a `pc` of the mode's width (R25). -/
def Obligations.StepKeepsInv : Prop := ∀ s t : State, Inv s → step s = .next t → Inv t

/-- The state a run starts from has that invariant. -/
def Obligations.ResetHasInv : Prop := Inv State.reset

/-- R186: every step stays inside the program text or just past its end, and moves forward in it. -/
def Obligations.StepStaysInText : Prop :=
  ∀ s t : State, WithinText s → step s = .next t → WithinText t ∧ s.pc.toNat + 3 ≤ t.pc.toNat

/-- The state a run starts from is inside its (empty) text. -/
def Obligations.ResetIsInText : Prop := WithinText State.reset

/-- R34: no step changes a parameter of the step relation. -/
def Obligations.StepKeepsParameters : Prop := ∀ s t : State, step s = .next t → SameParams s t

/-- R26: no instruction writes a flag; none but AC changes what an instruction does, and AC only through the
alignment-check condition: not where CR0.AM = 0, where CPL is not 3, or without a memory operand. -/
def Obligations.FlagsNeitherReadNorWritten : Prop :=
  (∀ (i : Instr) (s t : State), exec i s = .next t → t.rflags = s.rflags) ∧
  (∀ (i : Instr) (s : State) (fl : BitVec 64), fl.getLsbD 18 = s.rflags.getLsbD 18 →
    OutcomesMatch (fun a b => b = { a with rflags := fl }) (exec i s) (exec i { s with rflags := fl })) ∧
  (∀ (i : Instr) (s : State) (fl : BitVec 64),
    (s.env.cr0AM = false ∨ s.env.cpl ≠ 3 ∨ (lastOperand i).isMem = false) →
    OutcomesMatch (fun a b => b = { a with rflags := fl }) (exec i s) (exec i { s with rflags := fl }))

/-- R186: there is no loop and no divergence: from inside a text of `n` bytes no run of more than `n` steps is still
going. -/
def Obligations.EveryRunStops : Prop :=
  ∀ s t : State, WithinText s → Host.Core.run Sys2Proof.core (s.text.bytes.length + 1) s ≠ .next t

/-- R55, R57: a run writes no memory, no parameter, no flag, no general register and no opmask register. -/
def Obligations.RunLeavesReadOnlyState : Prop :=
  ∀ (n : Nat) (s t : State), Host.Core.run Sys2Proof.core n s = .next t → Untouched s t

/-- R21: in M32 no step writes a vector register above 7. -/
def Obligations.Step32KeepsHighVectors : Prop :=
  ∀ s t : State, s.mode = .m32 → step s = .next t → ∀ r : BitVec 5, 8 ≤ r.toNat → t.zmmAt r = s.zmmAt r

/-- R21, R24: in M32 what a step does does not depend on vector registers above 7, general registers above 7 or the high
halves of general registers. -/
def Obligations.Step32IgnoresHighRegisters : Prop :=
  ∀ s t : State, SameIn32 s t → OutcomesMatch SameIn32 (step s) (step t)

/-- R113: a form that completes sets `pc` to `pc + len` in the mode's width; one that raises an exception leaves `pc`. -/
def Obligations.PcAdvancesOrStays : Prop :=
  (∀ s t : State, step s = .next t →
    ∃ i, decode s.mode (bytesAtPc s) = .instr i ∧ AdvancedBy i.len s t) ∧
  (∀ (s : State) (f : Fault), step s = .fault f → f.savedPc = s.pc ∧ (s.afterFault f).pc = s.pc)

/-! ### What each instruction does -/

/-- R110, R29: POR mm, mm. -/
def Obligations.PorMmRegisterForm : Prop :=
  ∀ (e : Legacy) (s : State) (r : BitVec 3), MmxEnabled s → e.rm = .reg r →
    ∃ t, exec (.porMm e) s = .next t ∧ OnlyMmAndPc e.reg s t ∧ AdvancedBy e.len s t ∧
      t.x87.top = 0#3 ∧ t.x87.tags = 0#16 ∧ t.x87Hi e.reg = 0xFFFF#16 ∧
      ∀ n, (t.mmAt e.reg).getLsbD n = ((s.mmAt e.reg).getLsbD n || (s.mmAt r).getLsbD n)

/-- R110, R29: POR mm, m64. -/
def Obligations.PorMmMemoryForm : Prop :=
  ∀ (e : Legacy) (s : State) (f : Nat → Byte), MmxEnabled s → e.rm.isMem = true → OperandReads (.porMm e) s f →
    ∃ t, exec (.porMm e) s = .next t ∧ OnlyMmAndPc e.reg s t ∧ AdvancedBy e.len s t ∧
      t.x87.top = 0#3 ∧ t.x87.tags = 0#16 ∧ t.x87Hi e.reg = 0xFFFF#16 ∧
      ∀ n, n < 64 → (t.mmAt e.reg).getLsbD n = ((s.mmAt e.reg).getLsbD n || byteBit f n)

/-- R29: what a completed row 1 does to the x87 state: TOP 0, every tag valid, bits 79:64 of the written register all
ones, those of the other registers unchanged; and nothing an instruction does depends on that record. -/
def Obligations.PorMmX87SideEffects : Prop :=
  (∀ (e : Legacy) (s t : State), exec (.porMm e) s = .next t →
    t.x87.top = 0#3 ∧ t.x87.tags = 0#16 ∧ t.x87Hi e.reg = 0xFFFF#16 ∧
    ∀ r, r ≠ e.reg → t.x87Hi r = s.x87Hi r) ∧
  (∀ (i : Instr) (s : State) (v : X87Side),
    OutcomesMatch (fun a b => b = { a with x87 := b.x87 }) (exec i s) (exec i { s with x87 := v }))

/-- R111: POR xmm, xmm: the low 128 bits are the OR, the upper bits of DEST unchanged. -/
def Obligations.PorXmmRegisterForm : Prop :=
  ∀ (e : Legacy) (s : State) (r : BitVec 3), SseEnabled s → e.rm = .reg r →
    ∃ t, exec (.porXmm e) s = .next t ∧ OnlyVecAndPc e.xmmDest s t ∧ AdvancedBy e.len s t ∧
      ∀ n, (t.zmmAt e.xmmDest).getLsbD n = ((s.zmmAt e.xmmDest).getLsbD n ||
        (decide (n < 128) && (s.zmmAt (vecNum false (rexB e.rex) r)).getLsbD n))

/-- R111: POR xmm, m128. -/
def Obligations.PorXmmMemoryForm : Prop :=
  ∀ (e : Legacy) (s : State) (f : Nat → Byte), SseEnabled s → e.rm.isMem = true → OperandReads (.porXmm e) s f →
    ∃ t, exec (.porXmm e) s = .next t ∧ OnlyVecAndPc e.xmmDest s t ∧ AdvancedBy e.len s t ∧
      ∀ n, (t.zmmAt e.xmmDest).getLsbD n = ((s.zmmAt e.xmmDest).getLsbD n || (decide (n < 128) && byteBit f n))

/-- R120, R121: VPOR with a register source. -/
def Obligations.VporRegisterForms : Prop :=
  vexRegister 128 (fun s => s.env.hasAVX) .vporXmm ∧ vexRegister 256 (fun s => s.env.hasAVX2) .vporYmm

/-- R120, R121: VPOR with a memory source. -/
def Obligations.VporMemoryForms : Prop :=
  vexMemory 128 (fun s => s.env.hasAVX) .vporXmm ∧ vexMemory 256 (fun s => s.env.hasAVX2) .vporYmm

/-- R130 to R136: VPORD and VPORQ with a register source. -/
def Obligations.EvexRegisterForms : Prop :=
  evexRegister 32 128 .vpordXmm ∧ evexRegister 32 256 .vpordYmm ∧ evexRegister 32 512 .vpordZmm ∧
  evexRegister 64 128 .vporqXmm ∧ evexRegister 64 256 .vporqYmm ∧ evexRegister 64 512 .vporqZmm

/-- R130 to R136: VPORD and VPORQ with a full-width memory source. -/
def Obligations.EvexMemoryForms : Prop :=
  evexMemory 32 128 .vpordXmm ∧ evexMemory 32 256 .vpordYmm ∧ evexMemory 32 512 .vpordZmm ∧
  evexMemory 64 128 .vporqXmm ∧ evexMemory 64 256 .vporqYmm ∧ evexMemory 64 512 .vporqZmm

/-- R63, R130: VPORD and VPORQ with a broadcast memory source. -/
def Obligations.EvexBroadcastForms : Prop :=
  evexBroadcast 32 128 .vpordXmm ∧ evexBroadcast 32 256 .vpordYmm ∧ evexBroadcast 32 512 .vpordZmm ∧
  evexBroadcast 64 128 .vporqXmm ∧ evexBroadcast 64 256 .vporqYmm ∧ evexBroadcast 64 512 .vporqZmm

/-- R138: without a writemask and without broadcast, VPORD and VPORQ of the same length do the same. -/
def Obligations.VpordAndVporqAgree : Prop :=
  ∀ (e : Evex) (s : State), e.aaa = 0#3 → e.bcast = false →
    exec (.vpordXmm e) s = exec (.vporqXmm e) s ∧ exec (.vpordYmm e) s = exec (.vporqYmm e) s ∧
    exec (.vpordZmm e) s = exec (.vporqZmm e) s

/-- R137: opmask bits at or above KL are ignored, and with aaa = 000 every opmask bit is. -/
def Obligations.HighMaskBitsAreIgnored : Prop :=
  ignoresHighMask 4 .vpordXmm ∧ ignoresHighMask 8 .vpordYmm ∧ ignoresHighMask 16 .vpordZmm ∧
  ignoresHighMask 2 .vporqXmm ∧ ignoresHighMask 4 .vporqYmm ∧ ignoresHighMask 8 .vporqZmm

/-- R74, R110: with a register source, row 1 does not depend on the bits of a REX byte. -/
def Obligations.MmxIgnoresRexBits : Prop :=
  ∀ (e : Legacy) (a b : Rex) (r : BitVec 3) (s : State), e.rm = .reg r →
    exec (.porMm { e with rex := some a }) s = exec (.porMm { e with rex := some b }) s

/-- R165: with a register source, what an instruction does does not depend on the privilege level. -/
def Obligations.RegisterFormsIgnorePrivilege : Prop :=
  ∀ (i : Instr) (s : State) (c : Fin 4), (lastOperand i).isMem = false →
    OutcomesMatch (fun a b => b = { a with env := { a.env with cpl := c } }) (exec i s)
      (exec i { s with env := { s.env with cpl := c } })

/-! ### Exceptions -/

/-- R153: a row completes only where the processor reports its feature flags, and raises #UD elsewhere; the launch state
reports them all. -/
def Obligations.FeatureFlagAbsentIsUd : Prop :=
  (∀ (i : Instr) (s : State), featureFlags s.env i = false → exec i s = .fault (.invalidOpcode s.pc)) ∧
  (∀ i : Instr, featureFlags State.reset.env i = true)

/-- R154, R158: the control-state traps of row 1, in their order #UD, #NM, #MF. -/
def Obligations.PorMmControlTraps : Prop :=
  ∀ (e : Legacy) (s : State),
    ((s.env.cr0EM = true ∨ s.env.hasMMX = false) → exec (.porMm e) s = .fault (.invalidOpcode s.pc)) ∧
    (s.env.cr0EM = false → s.env.hasMMX = true → s.env.cr0TS = true →
      exec (.porMm e) s = .fault (.deviceNotAvailable s.pc)) ∧
    (s.env.cr0EM = false → s.env.hasMMX = true → s.env.cr0TS = false → s.env.x87ES = true →
      exec (.porMm e) s = .fault (.x87Pending s.pc))

/-- R152, R158: the control-state traps of row 2. -/
def Obligations.PorXmmControlTraps : Prop :=
  ∀ (e : Legacy) (s : State),
    ((s.env.cr0EM = true ∨ s.env.cr4OSFXSR = false ∨ s.env.hasSSE2 = false) →
      exec (.porXmm e) s = .fault (.invalidOpcode s.pc)) ∧
    (s.env.cr0EM = false → s.env.cr4OSFXSR = true → s.env.hasSSE2 = true → s.env.cr0TS = true →
      exec (.porXmm e) s = .fault (.deviceNotAvailable s.pc))

/-- R152, R158: the control-state traps of rows 3 and 4. -/
def Obligations.VporControlTraps : Prop :=
  vexTraps (fun s => s.env.hasAVX) .vporXmm ∧ vexTraps (fun s => s.env.hasAVX2) .vporYmm

/-- R155, R158: the control-state traps of rows 5 to 10. -/
def Obligations.EvexControlTraps : Prop :=
  evexTraps 128 .vpordXmm ∧ evexTraps 256 .vpordYmm ∧ evexTraps 512 .vpordZmm ∧
  evexTraps 128 .vporqXmm ∧ evexTraps 256 .vporqYmm ∧ evexTraps 512 .vporqZmm

/-- R65, R156: in M64 a memory operand with a byte at a non-canonical address raises #SS(0) through SS, else #GP(0), and one
without passes the check: `OperandInSegment` says exactly that every byte address is canonical. The linear width is 48
bits, by default, or 57. Two clauses are the model's reading of R65, DEDUCED: that `LA + k` is modulo 2^64 where an operand
wraps (log 11), and that `Canonical` is one of these two widths (log 16). With alignment checking enabled and a misaligned
operand of rows 3 to 10, that #SS or #GP comes before the refusal of R52 (D14) is a DESIGN CHOICE (log 31). -/
def Obligations.NonCanonicalOperandTraps : Prop :=
  State.reset.linearWidth = .w48 ∧ linearBits .w48 = 48 ∧ linearBits .w57 = 57 ∧
  (∀ (i : Instr) (s : State) (k j : Nat), Enabled i s → (lastOperand i).isMem = true → s.mode = .m64 →
    k < operandBytes i → linearBits s.linearWidth - 1 ≤ j → j < 63 →
    (operandLA i s + BitVec.ofNat 64 k).getLsbD j ≠ (operandLA i s + BitVec.ofNat 64 k).getLsbD 63 →
    exec i s = .fault (segmentFault (operandSegment i s) s.pc)) ∧
  (∀ (i : Instr) (s : State), s.mode = .m64 →
    (OperandInSegment i s ↔
      ∀ k, k < operandBytes i → bitsAllEqual s.linearWidth (operandLA i s + BitVec.ofNat 64 k)))

/-- R53, R156: in M32 a memory operand with an offset past the segment's limit, or through a segment that is not readable,
raises #SS(0) through SS, else #GP(0), and any other passes the check: `OperandInSegment` says exactly that the segment is
readable and, where it has a limit, that no offset is past it. The form of a limit is the model's,
DEDUCED (log 13). With alignment checking enabled and a misaligned operand of rows 3 to 10, that #SS or #GP comes before the
refusal of R52 (D14) is a DESIGN CHOICE (log 31). -/
def Obligations.SegmentViolationTraps : Prop :=
  (∀ (i : Instr) (s : State), Enabled i s → (lastOperand i).isMem = true → s.mode = .m32 →
    ((∃ (l : BitVec 32) (k : Nat), (s.segs.get (operandSegment i s)).limit = some l ∧ k < operandBytes i ∧
        l.toNat < (operandEA i s).toNat + k) ∨ (s.segs.get (operandSegment i s)).readable = false) →
    exec i s = .fault (segmentFault (operandSegment i s) s.pc)) ∧
  (∀ (i : Instr) (s : State), s.mode = .m32 →
    (OperandInSegment i s ↔
      (s.segs.get (operandSegment i s)).readable = true ∧
      ∀ l : BitVec 32, (s.segs.get (operandSegment i s)).limit = some l →
        ∀ k, k < operandBytes i → (operandEA i s).toNat + k ≤ l.toNat))

/-- R52, R152: row 2 raises #GP(0) where its memory operand's address is not a multiple of 16, whatever the
alignment-check setting and whether or not the bytes are mapped. -/
def Obligations.PorXmmMisalignedTraps : Prop :=
  ∀ (e : Legacy) (s : State), SseEnabled s → e.rm.isMem = true → OperandInSegment (.porXmm e) s →
    (operandLA (.porXmm e) s).toNat % 16 ≠ 0 →
    exec (.porXmm e) s = .fault (.generalProtection s.pc 0#32)

/-- R54, R156, R162: where bytes of the memory operand do not translate, #PF is raised with the lowest of their linear
addresses (D10) and the code of that byte. That an operand at the top of the address space goes on at address 0, which is
then its lowest address, is the model's reading, DEDUCED (log 11). That the fault comes whatever the writemask is the
decision D16 (log 20): R64 says that hardware is believed to suppress it. With alignment checking enabled and a misaligned
operand of rows 3 to 10, that #PF comes before the refusal of R52 (D14) is a DESIGN CHOICE (log 31). -/
def Obligations.UnmappedOperandTraps : Prop :=
  ∀ (i : Instr) (s : State) (k : Nat) (c : BitVec 32), Enabled i s → (lastOperand i).isMem = true →
    OperandInSegment i s → (alignRule i = .sse → (operandLA i s).toNat % 16 = 0) → k < operandBytes i →
    s.translate (s.byteAddr (operandLA i s) k) = .error c →
    (∀ j, j < operandBytes i → (∃ d, s.translate (s.byteAddr (operandLA i s) j) = .error d) →
      (s.byteAddr (operandLA i s) k).toNat ≤ (s.byteAddr (operandLA i s) j).toNat) →
    exec i s = .fault (.pageFault s.pc c (s.byteAddr (operandLA i s) k))

/-- R52, R154: with alignment checking enabled, a misaligned memory operand that can otherwise be read raises #AC(0) in row
1 and is refused in rows 3 to 10 (D14). What "misaligned" means for rows 3 to 10 is the model's choice (log 12), and so is
that the refusal comes after #SS, #GP and #PF, of an operand that can be read only (log 31). -/
def Obligations.AlignmentCheckStops : Prop :=
  ∀ (i : Instr) (s : State) (f : Nat → Byte), Enabled i s → (lastOperand i).isMem = true → OperandInSegment i s →
    (∀ k, k < operandBytes i → s.translate (s.byteAddr (operandLA i s) k) = .ok (f k)) →
    s.env.cr0AM = true → s.rflags.getLsbD 18 = true → s.env.cpl = 3 →
    (alignRule i = .mmx → (operandLA i s).toNat % 8 ≠ 0 → exec i s = .fault (.alignmentCheck s.pc 0#32)) ∧
    (alignRule i = .vector → (operandLA i s).toNat % operandBytes i ≠ 0 → exec i s = .refused .misalignedVector)

/-- R157, R162: the error codes: none for #UD, #NM and #MF; 0 for #SS, #GP and #AC; for #PF a code as R162 has it,
and CR2 loaded with the linear address. Nothing else of the state before the instruction has changed. -/
def Obligations.FaultValuesRecorded : Prop :=
  ∀ (s : State) (f : Fault), step s = .fault f →
    (f.vector = 6 ∨ f.vector = 7 ∨ f.vector = 16 → f.errorCode = none ∧ s.afterFault f = s) ∧
    (f.vector = 12 ∨ f.vector = 13 ∨ f.vector = 17 → f.errorCode = some 0#32 ∧ s.afterFault f = s) ∧
    (f.vector = 14 → ∃ c a, f.errorCode = some c ∧ s.afterFault f = { s with cr2 := a } ∧
      s.translate a = .error c ∧ pageFaultCode s a c)

/-- R151: only row 1 raises #MF or #AC, and no row raises any exception outside the list of R151. -/
def Obligations.OnlyRow1RaisesMfOrAc : Prop :=
  ∀ (i : Instr) (s : State) (f : Fault), exec i s = .fault f →
    f.vector ∈ [6, 7, 12, 13, 14, 16, 17] ∧ (f.vector = 16 ∨ f.vector = 17 → ∃ e, i = .porMm e)

/-- R156: a form with a register source raises no memory-operand exception. -/
def Obligations.RegisterFormsRaiseNoMemoryFault : Prop :=
  ∀ (i : Instr) (s : State) (f : Fault), (lastOperand i).isMem = false → exec i s = .fault f →
    f.vector = 6 ∨ f.vector = 7 ∨ f.vector = 16

/-! ### Operands and memory -/

/-- R79, R81: the effective address of every addressing form is the sum of its parts modulo the address size. -/
def Obligations.EffectiveAddressIsTheSum : Prop :=
  ∀ (s : State) (a : AddrSize) (x b : Bool) (n8 len : Nat) (rm : Rm),
    ((s.effAddr a x b n8 len rm).toNat : Int) = eaInt s a x b n8 len rm % (addrMod a : Int)

/-- R81, R88: the effective address of an instruction's memory operand: the sum of the parts of its addressing form,
an 8-bit displacement times the factor of the instruction (which in the EVEX family is the number of bytes it reads), a
32-bit one never scaled, and RIP-relative in M64 where the displacement stands alone. -/
def Obligations.OperandAddress : Prop :=
  (∀ (i : Instr) (s : State), ((operandEA i s).toNat : Int) =
    eaInt s (addrSizeOf s.mode (prefixesOf i)) (indexExt i) (baseExt i) (disp8Factor i) i.len (lastOperand i)
      % (addrMod (addrSizeOf s.mode (prefixesOf i)) : Int)) ∧
  (∀ i : Instr, disp8Factor i ≠ 1 → disp8Factor i = operandBytes i)

/-- R53: the linear address of the memory operand is the segment's base plus the effective address, in the mode's
width. -/
def Obligations.LinearAddressIsTheSum : Prop :=
  ∀ (i : Instr) (s : State), (operandLA i s).toNat =
    ((s.segBase (operandSegment i s)).toNat + (operandEA i s).toNat) % addrSpace s.mode

/-- R77, R87: the register numbers of the operands. -/
def Obligations.RegisterNumbers : Prop :=
  (∀ e : Legacy, e.xmmDest.toNat = 8 * (rexR e.rex).toNat + e.reg.toNat) ∧
  (∀ e : Vex, e.dest.toNat = 8 * e.r.toNat + e.reg.toNat ∧ e.src1.toNat = e.vvvv.toNat) ∧
  (∀ e : Evex, e.dest.toNat = 16 * e.r2.toNat + 8 * e.r.toNat + e.reg.toNat ∧
    e.src1.toNat = 16 * e.v2.toNat + e.vvvv.toNat) ∧
  (∀ (x b : Bool) (r : BitVec 3), (vecNum x b r).toNat = 16 * x.toNat + 8 * b.toNat + r.toNat)

/-- R32, R53, R72, R79: the segment of the memory operand and its base. The base: in M64 that of FS and GS, 0 for the others;
in M32 that of the segment register. The segment: the default where no override stands; in M32 the override; in M64 an FS
or GS override. The default: SS exactly where the base register is number 4 or 5 with B = 0, through SIB or not, else DS,
as where there is no base register. R72 gives an override by another segment in M64 no effect; that it leaves the default
segment also for the choice between #SS and #GP is the model's reading, DEDUCED (log 15). -/
def Obligations.SegmentOfTheOperand : Prop :=
  (∀ s : State, s.mode = .m64 →
    s.segBase .es = 0#64 ∧ s.segBase .cs = 0#64 ∧ s.segBase .ss = 0#64 ∧ s.segBase .ds = 0#64 ∧
    s.segBase .fs = s.segs.fs.base ∧ s.segBase .gs = s.segs.gs.base) ∧
  (∀ s : State, s.mode = .m32 →
    s.segBase .es = s.segs.es.base ∧ s.segBase .cs = s.segs.cs.base ∧ s.segBase .ss = s.segs.ss.base ∧
    s.segBase .ds = s.segs.ds.base ∧ s.segBase .fs = s.segs.fs.base ∧ s.segBase .gs = s.segs.gs.base) ∧
  (∀ (ps : List LegacyPrefix) (g : Seg), prefixGroupsDistinct ps = true → LegacyPrefix.seg g ∈ ps →
    segOverride ps = some g) ∧
  (∀ ps : List LegacyPrefix, (∀ g, LegacyPrefix.seg g ∉ ps) → segOverride ps = none) ∧
  (∀ (i : Instr) (s : State),
    operandSegment i s = operandSeg s.mode (prefixesOf i) (baseExt i) (lastOperand i)) ∧
  (∀ (m : Mode) (ps : List LegacyPrefix) (b : Bool) (rm : Rm), segOverride ps = none →
    operandSeg m ps b rm = defaultSeg b rm) ∧
  (∀ (ps : List LegacyPrefix) (b : Bool) (rm : Rm) (g : Seg), segOverride ps = some g →
    operandSeg .m32 ps b rm = g) ∧
  (∀ (ps : List LegacyPrefix) (b : Bool) (rm : Rm) (g : Seg), segOverride ps = some g → (g = .fs ∨ g = .gs) →
    operandSeg .m64 ps b rm = g) ∧
  (∀ (ps : List LegacyPrefix) (b : Bool) (rm : Rm) (g : Seg), segOverride ps = some g → g ≠ .fs → g ≠ .gs →
    operandSeg .m64 ps b rm = defaultSeg b rm) ∧
  (∀ (b : Bool) (r : BitVec 3) (d : Disp),
    defaultSeg b (.base r d) = if b = false ∧ (r = 4#3 ∨ r = 5#3) then .ss else .ds) ∧
  (∀ (b : Bool) (scale : BitVec 2) (index r : BitVec 3) (d : Disp),
    defaultSeg b (.sib scale index r d) = if b = false ∧ (r = 4#3 ∨ r = 5#3) then .ss else .ds) ∧
  (∀ (b : Bool) (d : BitVec 32), defaultSeg b (.dispOnly d) = .ds) ∧
  (∀ (b : Bool) (scale : BitVec 2) (index : BitVec 3) (d : BitVec 32),
    defaultSeg b (.sibNoBase scale index d) = .ds)

/-- A byte written to memory is read back, and every other address reads as before. -/
def Obligations.MemoryReadsWhatWasWritten : Prop :=
  ∀ (m : Memory) (a c : Nat) (v : Byte),
    Memory.read (Memory.write m a v) c = if c = a then some v else Memory.read m c

/-- R8, R51, R55: a stored value is read back, the lowest address holding the least significant byte, and every address
outside its `n` bytes reads as before. -/
def Obligations.StoreIsLittleEndian : Prop :=
  ∀ (s : State) (w n : Nat) (v : BitVec w) (a : Addr) (c : Nat),
    (∀ k, k < n → c = a.toNat + k → Memory.read (s.memWrite a n v).mem c = some (v.extractLsb' (8 * k) 8)) ∧
    (c < a.toNat ∨ a.toNat + n ≤ c → Memory.read (s.memWrite a n v).mem c = Memory.read s.mem c)

/-- The launch premise of R28 and D14 holds at reset, with flat segments, no memory and the empty text under `pc`; the mode
and the empty text are the model's choices (log 1, log 6). -/
def Obligations.ResetIsTheLaunchPremise : Prop :=
  MmxEnabled State.reset ∧ SseEnabled State.reset ∧ EvexEnabled 128 State.reset ∧
  State.reset.env.hasAVX = true ∧ State.reset.env.hasAVX2 = true ∧ State.reset.alignmentCheckEnabled = false ∧
  State.reset.env.xcr0.getLsbD 0 = true ∧ State.reset.pages = [] ∧ State.reset.mem = [] ∧
  (∀ g, State.reset.segBase g = 0#64) ∧ RunEnded State.reset

/-! ### Translation -/

/-- R60, R61: what `Translate` answers. An address in no range is translated to itself: the byte of data memory at that
address, or #PF where none is mapped. Else the first range that holds it decides: a present range answers with the byte at
`phys` plus the offset in the range, or #PF where none is mapped; a range that is not present, one with a reserved bit and
a supervisor range at CPL 3 answer #PF, with the codes of R162. The list form and P = 1 beside RSVD = 1 are PRESUMED
(log 14), and so is that bits 31:5 of a code are 0 (log 33); #PF with P = 0 for an unmapped byte is log 5. -/
def Obligations.TranslateReadsMemory : Prop :=
  ∀ (s : State) (a : Addr),
    ((∀ p ∈ s.pages, ¬ inPage p a) → answersFrom s a a.toNat) ∧
    ∀ (before after : List Page) (p : Page), s.pages = before ++ p :: after → (∀ q ∈ before, ¬ inPage q a) →
      inPage p a →
      (p.kind = .notPresent → s.translate a = .error (usBit s)) ∧
      (p.kind = .reservedBit → s.translate a = .error (9#32 ||| usBit s)) ∧
      (∀ phys, p.kind = .present phys false → s.env.cpl = 3 → s.translate a = .error 5#32) ∧
      (∀ phys user, p.kind = .present phys user → (user = true ∨ s.env.cpl ≠ 3) →
        answersFrom s a (phys + (a.toNat - p.lo)))

/-- R51, R60: without translation the bytes of a memory operand are those of data memory at its linear address on, which go
on at address 0 of the mode's width where the operand wraps (log 11). -/
def Obligations.UntranslatedOperandIsMemory : Prop :=
  ∀ (i : Instr) (s : State) (f : Nat → Byte), s.pages = [] →
    ((∀ k, k < operandBytes i → s.translate (s.byteAddr (operandLA i s) k) = .ok (f k)) ↔
      ∀ k, k < operandBytes i →
        Memory.read s.mem (((operandLA i s).toNat + k) % addrSpace s.mode) = some (f k))
end

