-- ==== Sys2Proof/Laws/Bits.lean ====
section
/-! SUPPORT. What the element operations do to each bit: `setElem`, `elem`, `replicateElem`, `evexLoop`. -/

namespace Sys2Proof.Machine

/-- Bit `n` after writing element `j`: the element's own bit inside it, the old bit elsewhere (R8). -/
theorem setElem_getLsbD {w : Nat} (v : BitVec w) (es j : Nat) (x : BitVec es) (n : Nat) :
    (setElem v es j x).getLsbD n =
      if j * es ≤ n ∧ n < j * es + es then decide (n < w) && x.getLsbD (n - j * es)
      else v.getLsbD n := by
  unfold setElem
  simp only [BitVec.getLsbD_or, BitVec.getLsbD_and, BitVec.getLsbD_not, BitVec.getLsbD_shiftLeft,
    BitVec.getLsbD_setWidth, BitVec.getLsbD_allOnes]
  by_cases hw : n < w
  · by_cases h1 : j * es ≤ n
    · by_cases h2 : n < j * es + es
      · have h3 : n - j * es < w := by omega
        have h4 : n - j * es < es := by omega
        have h5 : ¬ n < j * es := by omega
        simp [hw, h1, h2, h3, h4, h5]
      · have h4 : ¬ n - j * es < es := by omega
        have h6 : x.getLsbD (n - j * es) = false := BitVec.getLsbD_of_ge _ _ (by omega)
        simp [hw, h2, h4, h6]
    · have h5 : n < j * es := by omega
      simp [hw, h1, h5]
  · have h6 : v.getLsbD n = false := BitVec.getLsbD_of_ge _ _ (by omega)
    simp [hw, h6]

/-- Bit `n` of element `j` (R6). -/
theorem elem_getLsbD {w : Nat} (v : BitVec w) (es j n : Nat) :
    (elem v es j).getLsbD n = (decide (n < es) && v.getLsbD (j * es + n)) := by
  simp [elem]

/-- Bit `n` of an element replicated `k` times (R130). -/
theorem replicateElem_getLsbD (es vl : Nat) (x : BitVec es) (hes : 0 < es) (k n : Nat) :
    (replicateElem es vl x k).getLsbD n = (decide (n < vl) && decide (n < k * es) && x.getLsbD (n % es)) := by
  induction k with
  | zero => simp [replicateElem]
  | succ k ih =>
    rw [replicateElem, setElem_getLsbD, ih]
    have hmul : (k + 1) * es = k * es + es := Nat.succ_mul k es
    by_cases h1 : k * es ≤ n
    · by_cases h2 : n < k * es + es
      · have hm : n % es = n - k * es := by
          have : n = (n - k * es) + es * k := by rw [Nat.mul_comm es k]; omega
          rw [this, Nat.add_mul_mod_self_left, Nat.mod_eq_of_lt (by omega)]
          rw [Nat.mul_comm es k]
          omega
        simp [h1, h2, hmul, hm]
      · have h3 : ¬ n < k * es := by omega
        simp [h2, h3, hmul]
    · have h3 : n < k * es := by omega
      have h4 : n < k * es + es := by omega
      simp [h1, h3, h4, hmul]

/-- Bit `n` after the element loop over `k` elements: a bit of a written element is the OR of the sources' bits, a bit of
another element is 0 or the old one, a bit past the elements is the old one (R130). -/
theorem evexLoop_getLsbD {vl : Nat} (es : Nat) (hes : 0 < es) (writes : Nat → Bool) (zeroing : Bool)
    (src1 src2 dest : BitVec vl) (k n : Nat) :
    (evexLoop es writes zeroing src1 src2 dest k).getLsbD n =
      if n < k * es then
        if writes (n / es) then src1.getLsbD n || src2.getLsbD n
        else if zeroing then false else dest.getLsbD n
      else dest.getLsbD n := by
  induction k with
  | zero => simp [evexLoop]
  | succ k ih =>
    have hmul : (k + 1) * es = k * es + es := Nat.succ_mul k es
    rw [evexLoop]
    by_cases h1 : k * es ≤ n
    · have h3 : ¬ n < k * es := by omega
      by_cases h2 : n < k * es + es
      · have hd : n / es = k := by
          apply Nat.div_eq_of_lt_le <;> rw [Nat.mul_comm] at * <;> simp_all [Nat.mul_comm]
        have hn : k * es + (n - k * es) = n := by omega
        have h4 : n - k * es < es := by omega
        by_cases hw : n < vl
        · cases hb : writes k <;> cases zeroing <;>
            simp [-BitVec.getLsbD_eq_getElem, setElem_getLsbD, elem_getLsbD, ih, h1, h2, h3, h4, hmul, hd,
              hb, hn, hw]
        · have e1 : src1.getLsbD n = false := BitVec.getLsbD_of_ge _ _ (by omega)
          have e2 : src2.getLsbD n = false := BitVec.getLsbD_of_ge _ _ (by omega)
          have e3 : dest.getLsbD n = false := BitVec.getLsbD_of_ge _ _ (by omega)
          cases hb : writes k <;> cases zeroing <;>
            simp [setElem_getLsbD, ih, h1, h2, h3, hmul, hd, hb, hw, e1, e2, e3]
      · cases writes k <;> cases zeroing <;> simp [setElem_getLsbD, ih, h2, h3, hmul]
    · have h3 : n < k * es := by omega
      have h4 : n < k * es + es := by omega
      cases writes k <;> cases zeroing <;> simp [setElem_getLsbD, ih, h1, h3, h4, hmul]

end Sys2Proof.Machine
end

