-- ==== Sys2Proof/Laws/Decode.lean ====
section
/-! SUPPORT. The byte layouts read back: prefix bytes, the REX byte, ModRM, SIB and displacement. -/

namespace Sys2Proof

/-- The byte of a legacy prefix is recognised as that prefix (R72). -/
@[simp] theorem legacyPrefixOf_byte (p : LegacyPrefix) : legacyPrefixOf p.byte = some p := by
  cases p with
  | seg g => cases g <;> rfl
  | _ => rfl

/-- Prefix bytes before a byte that is none are taken off whole (R91 step 1). -/
theorem takePrefixes_append (ps : List LegacyPrefix) {b : Byte} (bs : List Byte) (h : legacyPrefixOf b = none) :
    takePrefixes (prefixBytes ps ++ b :: bs) = (ps, b :: bs) := by
  induction ps with
  | nil => simp [prefixBytes, takePrefixes, h]
  | cons p ps ih =>
    simp only [prefixBytes] at ih
    simp [prefixBytes, takePrefixes, ih]

/-- Conversely, a recognised byte is the byte of its prefix. -/
theorem byte_of_legacyPrefixOf {b : Byte} {p : LegacyPrefix} (h : legacyPrefixOf b = some p) : p.byte = b := by
  have all : ∀ b : Byte, (legacyPrefixOf b).all (fun p => p.byte == b) = true := by decide
  have := all b
  rw [h] at this
  simpa using this

/-- What `takePrefixes` takes off and leaves are the bytes it was given. -/
theorem prefixBytes_takePrefixes (bs : List Byte) : prefixBytes (takePrefixes bs).1 ++ (takePrefixes bs).2 = bs := by
  induction bs with
  | nil => rfl
  | cons b bs ih =>
    unfold takePrefixes
    split
    · simp [prefixBytes]
    · rename_i p h
      simp only [prefixBytes] at ih
      simp [prefixBytes, byte_of_legacyPrefixOf h, ih]

/-- A REX byte is one, and is no legacy prefix (R74). -/
theorem Rex.byte_isRex (r : Rex) : isRexByte r.byte = true ∧ legacyPrefixOf r.byte = none := by
  obtain ⟨w, r, x, b⟩ := r
  revert w r x b
  decide

/-- The fields of a REX byte are read back (R74). -/
@[simp] theorem rexOfByte_byte (r : Rex) : rexOfByte r.byte = r := by
  obtain ⟨w, r, x, b⟩ := r
  revert w r x b
  decide

/-- A REX byte is the byte of its fields (R74). -/
theorem Rex.byte_rexOfByte {b : Byte} (h : isRexByte b = true) : (rexOfByte b).byte = b := by
  revert b
  decide

/-- Four bytes of a displacement are read back (R80). -/
theorem le32_le32Bytes (d : BitVec 32) :
    le32 (d.extractLsb' 0 8) (d.extractLsb' 8 8) (d.extractLsb' 16 8) (d.extractLsb' 24 8) = d := by
  apply BitVec.eq_of_getLsbD_eq
  intro i hi
  simp only [le32, BitVec.getLsbD_append, BitVec.getLsbD_extractLsb']
  by_cases h1 : i < 8
  · simp [h1]
  by_cases h2 : i < 16
  · have e : 8 + (i - 8) = i := by omega
    have e' : i - 8 < 8 := by omega
    simp [h1, e, e']
  by_cases h3 : i < 24
  · have e : 16 + (i - 8 - 8) = i := by omega
    have e' : ¬ i - 8 < 8 := by omega
    have e'' : i - 8 - 8 < 8 := by omega
    simp [h1, e, e', e'']
  · have e : 24 + (i - 8 - 8 - 8) = i := by omega
    have e' : ¬ i - 8 < 8 := by omega
    have e'' : ¬ i - 8 - 8 < 8 := by omega
    have e3 : i - 8 - 8 - 8 < 8 := by omega
    simp [h1, e, e', e'', e3]

/-- The bytes of a displacement made of four bytes are those bytes (R80). -/
theorem le32Bytes_le32 (a b c d : Byte) : le32Bytes (le32 a b c d) = [a, b, c, d] := by
  have key : ∀ k, k < 4 → (le32 a b c d).extractLsb' (8 * k) 8 = [a, b, c, d].getD k 0#8 := by
    intro k hk
    apply BitVec.eq_of_getLsbD_eq
    intro i hi
    simp only [le32, BitVec.getLsbD_extractLsb', BitVec.getLsbD_append, hi, decide_true, Bool.true_and]
    rcases (by omega : k = 0 ∨ k = 1 ∨ k = 2 ∨ k = 3) with rfl | rfl | rfl | rfl
    · simp [hi]
    · have e : ¬ 8 + i < 8 := by omega
      simp [hi]
    · have e : ¬ 16 + i < 8 := by omega
      have e1 : ¬ 16 + i - 8 < 8 := by omega
      have e2 : 16 + i - 8 - 8 = i := by omega
      simp [e, e1, e2, hi]
    · have e : ¬ 24 + i < 8 := by omega
      have e1 : ¬ 24 + i - 8 < 8 := by omega
      have e2 : ¬ 24 + i - 8 - 8 < 8 := by omega
      have e3 : 24 + i - 8 - 8 - 8 = i := by omega
      simp [e, e1, e2, e3]
  simp only [le32Bytes]
  rw [key 0 (by decide), key 1 (by decide), key 2 (by decide), key 3 (by decide)]
  rfl

/-- The fields of a ModRM byte are read back (R75). -/
theorem modRMByte_fields (mod : BitVec 2) (reg rm : BitVec 3) :
    (modRMByte mod reg rm).extractLsb' 6 2 = mod ∧ (modRMByte mod reg rm).extractLsb' 3 3 = reg ∧
      (modRMByte mod reg rm).extractLsb' 0 3 = rm := by
  revert mod reg rm
  decide

/-- The fields of a SIB byte are read back (R78). -/
theorem sibByte_fields (scale : BitVec 2) (index base : BitVec 3) :
    (sibByte scale index base).extractLsb' 6 2 = scale ∧ (sibByte scale index base).extractLsb' 3 3 = index ∧
      (sibByte scale index base).extractLsb' 0 3 = base :=
  modRMByte_fields scale index base

/-- The bytes of a displacement are read back (R80). -/
theorem readDisp_bytes (d : Disp) (rest : List Byte) : readDisp d.mod (d.bytes ++ rest) = some (d, rest) := by
  cases d <;> simp [readDisp, Disp.mod, Disp.bytes, le32Bytes, le32_le32Bytes]

/-- The bytes of a well-formed operand are read back, and nothing after them is taken (R75, R78 to R80). -/
theorem readModRM_bytes (reg : BitVec 3) {rm : Rm} (h : rm.wf = true) (rest : List Byte) :
    readModRM (rm.bytes reg ++ rest) = some (reg, rm, rest) := by
  have mod3 : ∀ d : Disp, d.mod ≠ 3#2 := by rintro (_ | _ | _) <;> simp [Disp.mod]
  have mod0 : ∀ (d : Disp) (b : BitVec 3), (d ≠ .none ∨ b ≠ 5#3) → ¬ (b = 5#3 ∧ d.mod = 0#2) := by
    rintro (_ | _ | _) b h <;> simp_all [Disp.mod]
  cases rm with
  | reg r => simp [Rm.bytes, readModRM, modRMByte_fields]
  | base r d =>
    simp only [Rm.wf, Bool.and_eq_true, Bool.or_eq_true, bne_iff_ne, ne_eq] at h
    simp [Rm.bytes, readModRM, modRMByte_fields, mod3, h.1, mod0 d r h.2, readDisp_bytes]
  | dispOnly d => simp [Rm.bytes, readModRM, modRMByte_fields, readDisp32, le32Bytes, le32_le32Bytes]
  | sib s i b d =>
    simp only [Rm.wf, Bool.or_eq_true, bne_iff_ne, ne_eq] at h
    simp [Rm.bytes, readModRM, modRMByte_fields, sibByte_fields, mod3, readSib, mod0 d b h, readDisp_bytes]
  | sibNoBase s i d =>
    simp [Rm.bytes, readModRM, modRMByte_fields, sibByte_fields, readSib, readDisp32, le32Bytes, le32_le32Bytes]

end Sys2Proof
end

