-- ==== Sys2Proof/Laws/Memory.lean ====
section
/-! SUPPORT. The laws of data memory: the canonical form is kept, a read after a write, the bits of a
little-endian value. -/

namespace Sys2Proof.Machine

/-- Every address listed after a write was listed before, or is the one written. -/
theorem Memory.mem_write {m : Memory} {i : Nat} {v : Byte} {c : Host.Cell}
    (h : c ∈ Memory.write m i v) : c = (i, v) ∨ c ∈ m := by
  induction m with
  | nil => simpa [Memory.write] using h
  | cons d m ih =>
    obtain ⟨a, b⟩ := d
    rw [Memory.write] at h
    split at h
    · simpa using h
    · split at h
      · simp only [List.mem_cons] at h ⊢
        tauto
      · simp only [List.mem_cons] at h ⊢
        rcases h with h | h
        · tauto
        · rcases ih h with h | h <;> tauto

/-- A write keeps the canonical form. -/
theorem Memory.wf_write {m : Memory} (i : Nat) (v : Byte) (h : Memory.wf m = true) :
    Memory.wf (Memory.write m i v) = true := by
  induction m with
  | nil => rfl
  | cons d m ih =>
    obtain ⟨a, b⟩ := d
    simp only [Memory.wf, Bool.and_eq_true, List.all_eq_true, decide_eq_true_eq] at h
    obtain ⟨hlt, hwf⟩ := h
    rw [Memory.write]
    split
    · rename_i hi
      simp only [Memory.wf, Bool.and_eq_true, List.all_eq_true, decide_eq_true_eq, List.mem_cons]
      refine ⟨?_, hlt, hwf⟩
      rintro c (rfl | hc)
      · exact hi
      · exact lt_trans hi (hlt c hc)
    · split
      · rename_i _ he
        subst he
        simp only [Memory.wf, Bool.and_eq_true, List.all_eq_true, decide_eq_true_eq]
        exact ⟨hlt, hwf⟩
      · rename_i h1 h2
        simp only [Memory.wf, Bool.and_eq_true, List.all_eq_true, decide_eq_true_eq]
        refine ⟨fun c hc => ?_, ih hwf⟩
        rcases Memory.mem_write hc with rfl | hc
        · show a < i
          omega
        · exact hlt c hc

/-- A run of writes keeps the canonical form. -/
theorem Memory.wf_writeBytes {m : Memory} (i : Nat) (bs : List Byte) (h : Memory.wf m = true) :
    Memory.wf (Memory.writeBytes m i bs) = true := by
  induction bs generalizing m i with
  | nil => exact h
  | cons b bs ih => exact ih (i + 1) (Memory.wf_write i b h)

/-- `MemWrite` keeps the canonical form. -/
theorem State.memWrite_wf {w : Nat} (s : State) (a : Addr) (n : Nat) (v : BitVec w)
    (h : Memory.wf s.mem = true) : Memory.wf (s.memWrite a n v).mem = true :=
  Memory.wf_writeBytes _ _ h

/-- The memory a run starts with has the canonical form. -/
theorem reset_mem_wf : Memory.wf State.reset.mem = true := rfl

/-- Bit `i` of the little-endian value of bytes is bit `i % 8` of byte `i / 8` (R51). -/
theorem leNat_testBit (bs : List Byte) (i : Nat) :
    (leNat bs).testBit i = ((bs[i / 8]?).getD 0#8).getLsbD (i % 8) := by
  induction bs generalizing i with
  | nil => simp [leNat]
  | cons b bs ih =>
    have h256 : b.toNat < 2 ^ 8 := b.isLt
    have key : leNat (b :: bs) = 2 ^ 8 * leNat bs + b.toNat := by simp [leNat]; omega
    rw [key, Nat.testBit_two_pow_mul_add _ h256]
    split
    · rename_i h
      have h0 : i / 8 = 0 := by omega
      have h1 : i % 8 = i := by omega
      simp [h0, h1, BitVec.getLsbD]
    · rename_i h
      have h0 : i / 8 = (i - 8) / 8 + 1 := by omega
      have h1 : i % 8 = (i - 8) % 8 := by omega
      rw [ih, h0, h1]
      simp

/-- The same of `leValue`, for the bits it has (R51). -/
theorem leValue_getLsbD (w : Nat) (bs : List Byte) (i : Nat) :
    (leValue w bs).getLsbD i = (decide (i < w) && ((bs[i / 8]?).getD 0#8).getLsbD (i % 8)) := by
  rw [leValue, BitVec.getLsbD_ofNat, leNat_testBit]

end Sys2Proof.Machine
end

