-- ==== Sys2Proof/Laws/State.lean ====
section
/-! SUPPORT. The small lemmas of State: for each named update, what every field is after it. -/

namespace Sys2Proof.Machine

variable (s : State)

/-! ### setCr2 -/

@[simp] theorem State.setCr2_mode (a : Addr) : (s.setCr2 a).mode = s.mode := rfl
@[simp] theorem State.setCr2_env (a : Addr) : (s.setCr2 a).env = s.env := rfl
@[simp] theorem State.setCr2_rflags (a : Addr) : (s.setCr2 a).rflags = s.rflags := rfl
@[simp] theorem State.setCr2_linearWidth (a : Addr) : (s.setCr2 a).linearWidth = s.linearWidth := rfl
@[simp] theorem State.setCr2_segs (a : Addr) : (s.setCr2 a).segs = s.segs := rfl
@[simp] theorem State.setCr2_x (a : Addr) : (s.setCr2 a).x = s.x := rfl
@[simp] theorem State.setCr2_mm (a : Addr) : (s.setCr2 a).mm = s.mm := rfl
@[simp] theorem State.setCr2_x87 (a : Addr) : (s.setCr2 a).x87 = s.x87 := rfl
@[simp] theorem State.setCr2_zmm (a : Addr) : (s.setCr2 a).zmm = s.zmm := rfl
@[simp] theorem State.setCr2_k (a : Addr) : (s.setCr2 a).k = s.k := rfl
@[simp] theorem State.setCr2_pc (a : Addr) : (s.setCr2 a).pc = s.pc := rfl
@[simp] theorem State.setCr2_cr2 (a : Addr) : (s.setCr2 a).cr2 = a := rfl
@[simp] theorem State.setCr2_pages (a : Addr) : (s.setCr2 a).pages = s.pages := rfl
@[simp] theorem State.setCr2_mem (a : Addr) : (s.setCr2 a).mem = s.mem := rfl
@[simp] theorem State.setCr2_text (a : Addr) : (s.setCr2 a).text = s.text := rfl

/-! ### setPc -/

@[simp] theorem State.setPc_mode (p : Addr) : (s.setPc p).mode = s.mode := rfl
@[simp] theorem State.setPc_env (p : Addr) : (s.setPc p).env = s.env := rfl
@[simp] theorem State.setPc_rflags (p : Addr) : (s.setPc p).rflags = s.rflags := rfl
@[simp] theorem State.setPc_linearWidth (p : Addr) : (s.setPc p).linearWidth = s.linearWidth := rfl
@[simp] theorem State.setPc_segs (p : Addr) : (s.setPc p).segs = s.segs := rfl
@[simp] theorem State.setPc_x (p : Addr) : (s.setPc p).x = s.x := rfl
@[simp] theorem State.setPc_mm (p : Addr) : (s.setPc p).mm = s.mm := rfl
@[simp] theorem State.setPc_x87 (p : Addr) : (s.setPc p).x87 = s.x87 := rfl
@[simp] theorem State.setPc_zmm (p : Addr) : (s.setPc p).zmm = s.zmm := rfl
@[simp] theorem State.setPc_k (p : Addr) : (s.setPc p).k = s.k := rfl
@[simp] theorem State.setPc_pc (p : Addr) : (s.setPc p).pc = p := rfl
@[simp] theorem State.setPc_cr2 (p : Addr) : (s.setPc p).cr2 = s.cr2 := rfl
@[simp] theorem State.setPc_pages (p : Addr) : (s.setPc p).pages = s.pages := rfl
@[simp] theorem State.setPc_mem (p : Addr) : (s.setPc p).mem = s.mem := rfl
@[simp] theorem State.setPc_text (p : Addr) : (s.setPc p).text = s.text := rfl

/-! ### advance -/

@[simp] theorem State.advance_mode (len : Nat) : (s.advance len).mode = s.mode := rfl
@[simp] theorem State.advance_env (len : Nat) : (s.advance len).env = s.env := rfl
@[simp] theorem State.advance_rflags (len : Nat) : (s.advance len).rflags = s.rflags := rfl
@[simp] theorem State.advance_linearWidth (len : Nat) : (s.advance len).linearWidth = s.linearWidth := rfl
@[simp] theorem State.advance_segs (len : Nat) : (s.advance len).segs = s.segs := rfl
@[simp] theorem State.advance_x (len : Nat) : (s.advance len).x = s.x := rfl
@[simp] theorem State.advance_mm (len : Nat) : (s.advance len).mm = s.mm := rfl
@[simp] theorem State.advance_x87 (len : Nat) : (s.advance len).x87 = s.x87 := rfl
@[simp] theorem State.advance_zmm (len : Nat) : (s.advance len).zmm = s.zmm := rfl
@[simp] theorem State.advance_k (len : Nat) : (s.advance len).k = s.k := rfl
@[simp] theorem State.advance_pc (len : Nat) : (s.advance len).pc = wrapAddr s.mode (s.pc + BitVec.ofNat 64 len) := rfl
@[simp] theorem State.advance_cr2 (len : Nat) : (s.advance len).cr2 = s.cr2 := rfl
@[simp] theorem State.advance_pages (len : Nat) : (s.advance len).pages = s.pages := rfl
@[simp] theorem State.advance_mem (len : Nat) : (s.advance len).mem = s.mem := rfl
@[simp] theorem State.advance_text (len : Nat) : (s.advance len).text = s.text := rfl

/-! ### setMm -/

@[simp] theorem State.setMm_mode (n : BitVec 3) (v : BitVec 64) : (s.setMm n v).mode = s.mode := rfl
@[simp] theorem State.setMm_env (n : BitVec 3) (v : BitVec 64) : (s.setMm n v).env = s.env := rfl
@[simp] theorem State.setMm_rflags (n : BitVec 3) (v : BitVec 64) : (s.setMm n v).rflags = s.rflags := rfl
@[simp] theorem State.setMm_linearWidth (n : BitVec 3) (v : BitVec 64) : (s.setMm n v).linearWidth = s.linearWidth := rfl
@[simp] theorem State.setMm_segs (n : BitVec 3) (v : BitVec 64) : (s.setMm n v).segs = s.segs := rfl
@[simp] theorem State.setMm_x (n : BitVec 3) (v : BitVec 64) : (s.setMm n v).x = s.x := rfl
@[simp] theorem State.setMm_x87 (n : BitVec 3) (v : BitVec 64) : (s.setMm n v).x87 = s.x87 := rfl
@[simp] theorem State.setMm_zmm (n : BitVec 3) (v : BitVec 64) : (s.setMm n v).zmm = s.zmm := rfl
@[simp] theorem State.setMm_k (n : BitVec 3) (v : BitVec 64) : (s.setMm n v).k = s.k := rfl
@[simp] theorem State.setMm_pc (n : BitVec 3) (v : BitVec 64) : (s.setMm n v).pc = s.pc := rfl
@[simp] theorem State.setMm_cr2 (n : BitVec 3) (v : BitVec 64) : (s.setMm n v).cr2 = s.cr2 := rfl
@[simp] theorem State.setMm_pages (n : BitVec 3) (v : BitVec 64) : (s.setMm n v).pages = s.pages := rfl
@[simp] theorem State.setMm_mem (n : BitVec 3) (v : BitVec 64) : (s.setMm n v).mem = s.mem := rfl
@[simp] theorem State.setMm_text (n : BitVec 3) (v : BitVec 64) : (s.setMm n v).text = s.text := rfl

/-! ### mmxToX87 -/

@[simp] theorem State.mmxToX87_mode (n : BitVec 3) : (s.mmxToX87 n).mode = s.mode := rfl
@[simp] theorem State.mmxToX87_env (n : BitVec 3) : (s.mmxToX87 n).env = s.env := rfl
@[simp] theorem State.mmxToX87_rflags (n : BitVec 3) : (s.mmxToX87 n).rflags = s.rflags := rfl
@[simp] theorem State.mmxToX87_linearWidth (n : BitVec 3) : (s.mmxToX87 n).linearWidth = s.linearWidth := rfl
@[simp] theorem State.mmxToX87_segs (n : BitVec 3) : (s.mmxToX87 n).segs = s.segs := rfl
@[simp] theorem State.mmxToX87_x (n : BitVec 3) : (s.mmxToX87 n).x = s.x := rfl
@[simp] theorem State.mmxToX87_mm (n : BitVec 3) : (s.mmxToX87 n).mm = s.mm := rfl
@[simp] theorem State.mmxToX87_zmm (n : BitVec 3) : (s.mmxToX87 n).zmm = s.zmm := rfl
@[simp] theorem State.mmxToX87_k (n : BitVec 3) : (s.mmxToX87 n).k = s.k := rfl
@[simp] theorem State.mmxToX87_pc (n : BitVec 3) : (s.mmxToX87 n).pc = s.pc := rfl
@[simp] theorem State.mmxToX87_cr2 (n : BitVec 3) : (s.mmxToX87 n).cr2 = s.cr2 := rfl
@[simp] theorem State.mmxToX87_pages (n : BitVec 3) : (s.mmxToX87 n).pages = s.pages := rfl
@[simp] theorem State.mmxToX87_mem (n : BitVec 3) : (s.mmxToX87 n).mem = s.mem := rfl
@[simp] theorem State.mmxToX87_text (n : BitVec 3) : (s.mmxToX87 n).text = s.text := rfl

/-! ### setZmm -/

@[simp] theorem State.setZmm_mode (n : BitVec 5) (v : BitVec Config.maxvl) : (s.setZmm n v).mode = s.mode := rfl
@[simp] theorem State.setZmm_env (n : BitVec 5) (v : BitVec Config.maxvl) : (s.setZmm n v).env = s.env := rfl
@[simp] theorem State.setZmm_rflags (n : BitVec 5) (v : BitVec Config.maxvl) : (s.setZmm n v).rflags = s.rflags := rfl
@[simp] theorem State.setZmm_linearWidth (n : BitVec 5) (v : BitVec Config.maxvl) : (s.setZmm n v).linearWidth = s.linearWidth := rfl
@[simp] theorem State.setZmm_segs (n : BitVec 5) (v : BitVec Config.maxvl) : (s.setZmm n v).segs = s.segs := rfl
@[simp] theorem State.setZmm_x (n : BitVec 5) (v : BitVec Config.maxvl) : (s.setZmm n v).x = s.x := rfl
@[simp] theorem State.setZmm_mm (n : BitVec 5) (v : BitVec Config.maxvl) : (s.setZmm n v).mm = s.mm := rfl
@[simp] theorem State.setZmm_x87 (n : BitVec 5) (v : BitVec Config.maxvl) : (s.setZmm n v).x87 = s.x87 := rfl
@[simp] theorem State.setZmm_k (n : BitVec 5) (v : BitVec Config.maxvl) : (s.setZmm n v).k = s.k := rfl
@[simp] theorem State.setZmm_pc (n : BitVec 5) (v : BitVec Config.maxvl) : (s.setZmm n v).pc = s.pc := rfl
@[simp] theorem State.setZmm_cr2 (n : BitVec 5) (v : BitVec Config.maxvl) : (s.setZmm n v).cr2 = s.cr2 := rfl
@[simp] theorem State.setZmm_pages (n : BitVec 5) (v : BitVec Config.maxvl) : (s.setZmm n v).pages = s.pages := rfl
@[simp] theorem State.setZmm_mem (n : BitVec 5) (v : BitVec Config.maxvl) : (s.setZmm n v).mem = s.mem := rfl
@[simp] theorem State.setZmm_text (n : BitVec 5) (v : BitVec Config.maxvl) : (s.setZmm n v).text = s.text := rfl

/-! ### setXmmKeep -/

@[simp] theorem State.setXmmKeep_mode (n : BitVec 5) (v : BitVec 128) : (s.setXmmKeep n v).mode = s.mode := rfl
@[simp] theorem State.setXmmKeep_env (n : BitVec 5) (v : BitVec 128) : (s.setXmmKeep n v).env = s.env := rfl
@[simp] theorem State.setXmmKeep_rflags (n : BitVec 5) (v : BitVec 128) : (s.setXmmKeep n v).rflags = s.rflags := rfl
@[simp] theorem State.setXmmKeep_linearWidth (n : BitVec 5) (v : BitVec 128) : (s.setXmmKeep n v).linearWidth = s.linearWidth := rfl
@[simp] theorem State.setXmmKeep_segs (n : BitVec 5) (v : BitVec 128) : (s.setXmmKeep n v).segs = s.segs := rfl
@[simp] theorem State.setXmmKeep_x (n : BitVec 5) (v : BitVec 128) : (s.setXmmKeep n v).x = s.x := rfl
@[simp] theorem State.setXmmKeep_mm (n : BitVec 5) (v : BitVec 128) : (s.setXmmKeep n v).mm = s.mm := rfl
@[simp] theorem State.setXmmKeep_x87 (n : BitVec 5) (v : BitVec 128) : (s.setXmmKeep n v).x87 = s.x87 := rfl
@[simp] theorem State.setXmmKeep_k (n : BitVec 5) (v : BitVec 128) : (s.setXmmKeep n v).k = s.k := rfl
@[simp] theorem State.setXmmKeep_pc (n : BitVec 5) (v : BitVec 128) : (s.setXmmKeep n v).pc = s.pc := rfl
@[simp] theorem State.setXmmKeep_cr2 (n : BitVec 5) (v : BitVec 128) : (s.setXmmKeep n v).cr2 = s.cr2 := rfl
@[simp] theorem State.setXmmKeep_pages (n : BitVec 5) (v : BitVec 128) : (s.setXmmKeep n v).pages = s.pages := rfl
@[simp] theorem State.setXmmKeep_mem (n : BitVec 5) (v : BitVec 128) : (s.setXmmKeep n v).mem = s.mem := rfl
@[simp] theorem State.setXmmKeep_text (n : BitVec 5) (v : BitVec 128) : (s.setXmmKeep n v).text = s.text := rfl

/-! ### setVecZero -/

@[simp] theorem State.setVecZero_mode {vl : Nat} (n : BitVec 5) (v : BitVec vl) : (s.setVecZero n v).mode = s.mode := rfl
@[simp] theorem State.setVecZero_env {vl : Nat} (n : BitVec 5) (v : BitVec vl) : (s.setVecZero n v).env = s.env := rfl
@[simp] theorem State.setVecZero_rflags {vl : Nat} (n : BitVec 5) (v : BitVec vl) : (s.setVecZero n v).rflags = s.rflags := rfl
@[simp] theorem State.setVecZero_linearWidth {vl : Nat} (n : BitVec 5) (v : BitVec vl) : (s.setVecZero n v).linearWidth = s.linearWidth := rfl
@[simp] theorem State.setVecZero_segs {vl : Nat} (n : BitVec 5) (v : BitVec vl) : (s.setVecZero n v).segs = s.segs := rfl
@[simp] theorem State.setVecZero_x {vl : Nat} (n : BitVec 5) (v : BitVec vl) : (s.setVecZero n v).x = s.x := rfl
@[simp] theorem State.setVecZero_mm {vl : Nat} (n : BitVec 5) (v : BitVec vl) : (s.setVecZero n v).mm = s.mm := rfl
@[simp] theorem State.setVecZero_x87 {vl : Nat} (n : BitVec 5) (v : BitVec vl) : (s.setVecZero n v).x87 = s.x87 := rfl
@[simp] theorem State.setVecZero_k {vl : Nat} (n : BitVec 5) (v : BitVec vl) : (s.setVecZero n v).k = s.k := rfl
@[simp] theorem State.setVecZero_pc {vl : Nat} (n : BitVec 5) (v : BitVec vl) : (s.setVecZero n v).pc = s.pc := rfl
@[simp] theorem State.setVecZero_cr2 {vl : Nat} (n : BitVec 5) (v : BitVec vl) : (s.setVecZero n v).cr2 = s.cr2 := rfl
@[simp] theorem State.setVecZero_pages {vl : Nat} (n : BitVec 5) (v : BitVec vl) : (s.setVecZero n v).pages = s.pages := rfl
@[simp] theorem State.setVecZero_mem {vl : Nat} (n : BitVec 5) (v : BitVec vl) : (s.setVecZero n v).mem = s.mem := rfl
@[simp] theorem State.setVecZero_text {vl : Nat} (n : BitVec 5) (v : BitVec vl) : (s.setVecZero n v).text = s.text := rfl

/-! ### memWrite -/

@[simp] theorem State.memWrite_mode {w : Nat} (a : Addr) (n : Nat) (v : BitVec w) : (s.memWrite a n v).mode = s.mode := rfl
@[simp] theorem State.memWrite_env {w : Nat} (a : Addr) (n : Nat) (v : BitVec w) : (s.memWrite a n v).env = s.env := rfl
@[simp] theorem State.memWrite_rflags {w : Nat} (a : Addr) (n : Nat) (v : BitVec w) : (s.memWrite a n v).rflags = s.rflags := rfl
@[simp] theorem State.memWrite_linearWidth {w : Nat} (a : Addr) (n : Nat) (v : BitVec w) : (s.memWrite a n v).linearWidth = s.linearWidth := rfl
@[simp] theorem State.memWrite_segs {w : Nat} (a : Addr) (n : Nat) (v : BitVec w) : (s.memWrite a n v).segs = s.segs := rfl
@[simp] theorem State.memWrite_x {w : Nat} (a : Addr) (n : Nat) (v : BitVec w) : (s.memWrite a n v).x = s.x := rfl
@[simp] theorem State.memWrite_mm {w : Nat} (a : Addr) (n : Nat) (v : BitVec w) : (s.memWrite a n v).mm = s.mm := rfl
@[simp] theorem State.memWrite_x87 {w : Nat} (a : Addr) (n : Nat) (v : BitVec w) : (s.memWrite a n v).x87 = s.x87 := rfl
@[simp] theorem State.memWrite_zmm {w : Nat} (a : Addr) (n : Nat) (v : BitVec w) : (s.memWrite a n v).zmm = s.zmm := rfl
@[simp] theorem State.memWrite_k {w : Nat} (a : Addr) (n : Nat) (v : BitVec w) : (s.memWrite a n v).k = s.k := rfl
@[simp] theorem State.memWrite_pc {w : Nat} (a : Addr) (n : Nat) (v : BitVec w) : (s.memWrite a n v).pc = s.pc := rfl
@[simp] theorem State.memWrite_cr2 {w : Nat} (a : Addr) (n : Nat) (v : BitVec w) : (s.memWrite a n v).cr2 = s.cr2 := rfl
@[simp] theorem State.memWrite_pages {w : Nat} (a : Addr) (n : Nat) (v : BitVec w) : (s.memWrite a n v).pages = s.pages := rfl
@[simp] theorem State.memWrite_mem {w : Nat} (a : Addr) (n : Nat) (v : BitVec w) : (s.memWrite a n v).mem = s.mem.writeBytes a.toNat (leBytes v n) := rfl
@[simp] theorem State.memWrite_text {w : Nat} (a : Addr) (n : Nat) (v : BitVec w) : (s.memWrite a n v).text = s.text := rfl

/-! ### setText -/

@[simp] theorem State.setText_mode (t : ProgramText) : (s.setText t).mode = s.mode := rfl
@[simp] theorem State.setText_env (t : ProgramText) : (s.setText t).env = s.env := rfl
@[simp] theorem State.setText_rflags (t : ProgramText) : (s.setText t).rflags = s.rflags := rfl
@[simp] theorem State.setText_linearWidth (t : ProgramText) : (s.setText t).linearWidth = s.linearWidth := rfl
@[simp] theorem State.setText_segs (t : ProgramText) : (s.setText t).segs = s.segs := rfl
@[simp] theorem State.setText_x (t : ProgramText) : (s.setText t).x = s.x := rfl
@[simp] theorem State.setText_mm (t : ProgramText) : (s.setText t).mm = s.mm := rfl
@[simp] theorem State.setText_x87 (t : ProgramText) : (s.setText t).x87 = s.x87 := rfl
@[simp] theorem State.setText_zmm (t : ProgramText) : (s.setText t).zmm = s.zmm := rfl
@[simp] theorem State.setText_k (t : ProgramText) : (s.setText t).k = s.k := rfl
@[simp] theorem State.setText_pc (t : ProgramText) : (s.setText t).pc = s.pc := rfl
@[simp] theorem State.setText_cr2 (t : ProgramText) : (s.setText t).cr2 = s.cr2 := rfl
@[simp] theorem State.setText_pages (t : ProgramText) : (s.setText t).pages = s.pages := rfl
@[simp] theorem State.setText_mem (t : ProgramText) : (s.setText t).mem = s.mem := rfl
@[simp] theorem State.setText_text (t : ProgramText) : (s.setText t).text = t := rfl

/-! ### Registers read after an update -/

/-- Reading `ZMM[r]` after writing `ZMM[n]`. -/
theorem State.zmmAt_setZmm (n r : BitVec 5) (v : BitVec Config.maxvl) :
    (s.setZmm n v).zmmAt r = if r = n then v else s.zmmAt r := by
  unfold State.zmmAt State.setZmm
  simp only [Vector.getElem_set]
  by_cases h : r = n
  · simp [h]
  · have : n.toNat ≠ r.toNat := fun e => h (BitVec.eq_of_toNat_eq e.symm)
    simp [h, this]

/-- Reading `MM[r]` after writing `MM[n]`. -/
theorem State.mmAt_setMm (n r : BitVec 3) (v : BitVec 64) :
    (s.setMm n v).mmAt r = if r = n then v else s.mmAt r := by
  unfold State.mmAt State.setMm
  simp only [Vector.getElem_set]
  by_cases h : r = n
  · simp [h]
  · have : n.toNat ≠ r.toNat := fun e => h (BitVec.eq_of_toNat_eq e.symm)
    simp [h, this]

/-- The x87 state after row 1 wrote `MM[n]` (R29). -/
@[simp] theorem State.mmxToX87_top (n : BitVec 3) : (s.mmxToX87 n).x87.top = 0#3 := rfl
@[simp] theorem State.mmxToX87_tags (n : BitVec 3) : (s.mmxToX87 n).x87.tags = 0#16 := rfl

@[simp] theorem State.advance_zmmAt (len : Nat) (r : BitVec 5) : (s.advance len).zmmAt r = s.zmmAt r := rfl
@[simp] theorem State.advance_mmAt (len : Nat) (r : BitVec 3) : (s.advance len).mmAt r = s.mmAt r := rfl
@[simp] theorem State.mmxToX87_mmAt (n r : BitVec 3) : (s.mmxToX87 n).mmAt r = s.mmAt r := rfl
@[simp] theorem State.mmxToX87_zmmAt (n : BitVec 3) (r : BitVec 5) : (s.mmxToX87 n).zmmAt r = s.zmmAt r := rfl
@[simp] theorem State.setMm_zmmAt (n : BitVec 3) (v : BitVec 64) (r : BitVec 5) :
    (s.setMm n v).zmmAt r = s.zmmAt r := rfl

end Sys2Proof.Machine
end

