-- ==== Sys2Proof/Laws/Ops.lean ====
section
/-! SUPPORT. One lemma per shared operation that says everything it can do. -/

namespace Sys2Proof.Machine

/-- A form completes exactly when no control-state condition holds and its operand is read. -/
theorem runForm_next_iff {α : Type} {s t : State} {check : Option Exc} {src : Except Stop α}
    {finish : α → State} :
    runForm s check src finish = .next t ↔ check = none ∧ ∃ v, src = .ok v ∧ t = finish v := by
  cases check with
  | some x => simp [runForm]
  | none =>
    cases src with
    | error e => cases e <;> simp [runForm]
    | ok v => simp [runForm, eq_comm]

/-- A form faults exactly when a control-state condition holds, or its operand read raises an exception. -/
theorem runForm_fault_iff {α : Type} {s : State} {f : Fault} {check : Option Exc} {src : Except Stop α}
    {finish : α → State} :
    runForm s check src finish = .fault f ↔
      ∃ x, f = takeException x s ∧ (check = some x ∨ (check = none ∧ src = .error (.exc x))) := by
  cases check with
  | some x => simp [runForm, eq_comm]
  | none =>
    cases src with
    | error e => cases e <;> simp [runForm, eq_comm]
    | ok v => simp [runForm]

/-- A form is refused exactly when no control-state condition holds and its operand read is refused. -/
theorem runForm_refused_iff {α : Type} {s : State} {r : Refusal} {check : Option Exc} {src : Except Stop α}
    {finish : α → State} :
    runForm s check src finish = .refused r ↔ check = none ∧ src = .error (.refuse r) := by
  cases check with
  | some x => simp [runForm]
  | none =>
    cases src with
    | error e => cases e <;> simp [runForm, eq_comm]
    | ok v => simp [runForm]

/-- Every fault saves the address of the faulting instruction (R157). -/
@[simp] theorem takeException_savedPc (x : Exc) (s : State) : (takeException x s).savedPc = s.pc := by
  cases x <;> rfl

/-- A fault changes nothing but CR2 (R157, R162). -/
theorem State.afterFault_eq (s : State) (f : Fault) :
    s.afterFault f = s.setCr2 (s.afterFault f).cr2 := by
  cases f <;> rfl

/-- An address is canonical exactly when its bits from the top bit of the linear width on equal bit 63 (R65). -/
theorem canonical_iff (w : LinearWidth) (a : Addr) :
    canonical w a = true ↔ ∀ j, linearBits w - 1 ≤ j → j < 63 → a.getLsbD j = a.getLsbD 63 := by
  have hb : linearBits w - 1 ≤ 63 := by cases w <;> simp [linearBits]
  unfold canonical
  generalize linearBits w - 1 = n at *
  have hz : a >>> n = 0#64 ↔ ∀ j, n ≤ j → j < 64 → a.getLsbD j = false := by
    constructor
    · intro h j h1 h2
      have := congrArg (fun v : BitVec 64 => v.getLsbD (j - n)) h
      simpa [BitVec.getLsbD_ushiftRight, show n + (j - n) = j by omega] using this
    · intro h
      refine BitVec.eq_of_getLsbD_eq fun i _ => ?_
      rw [BitVec.getLsbD_ushiftRight, BitVec.getLsbD_zero]
      by_cases h2 : n + i < 64
      · exact h _ (by omega) h2
      · exact BitVec.getLsbD_of_ge _ _ (by omega)
  have ho : a >>> n = BitVec.allOnes 64 >>> n ↔ ∀ j, n ≤ j → j < 64 → a.getLsbD j = true := by
    constructor
    · intro h j h1 h2
      have := congrArg (fun v : BitVec 64 => v.getLsbD (j - n)) h
      simp only [BitVec.getLsbD_ushiftRight, BitVec.getLsbD_allOnes, show n + (j - n) = j by omega] at this
      simpa [h2] using this
    · intro h
      refine BitVec.eq_of_getLsbD_eq fun i _ => ?_
      rw [BitVec.getLsbD_ushiftRight, BitVec.getLsbD_ushiftRight, BitVec.getLsbD_allOnes]
      by_cases h2 : n + i < 64
      · simp [h _ (by omega) h2, h2]
      · simp [BitVec.getLsbD_of_ge a _ (show 64 ≤ n + i by omega), h2]
  rw [Bool.or_eq_true, beq_iff_eq, beq_iff_eq, hz, ho]
  constructor
  · rintro (h | h) j h1 h2 <;> rw [h j h1 (by omega), h 63 hb (by omega)]
  · intro h
    cases h63 : a.getLsbD 63
    · refine .inl fun j h1 h2 => ?_
      by_cases hj : j = 63
      · rw [hj, h63]
      · rw [h j h1 (by omega), h63]
    · refine .inr fun j h1 h2 => ?_
      by_cases hj : j = 63
      · rw [hj, h63]
      · rw [h j h1 (by omega), h63]

/-- No range decides an address exactly when none holds it (R61). -/
theorem State.pageOf_eq_none_iff (s : State) (a : Addr) :
    s.pageOf a = none ↔ ∀ p ∈ s.pages, ¬ (p.lo ≤ a.toNat ∧ a.toNat < p.lo + p.size) := by
  simp only [State.pageOf, List.find?_eq_none, decide_eq_true_eq]

/-- The range that decides an address is the first that holds it (R61). -/
theorem State.pageOf_eq_some_iff (s : State) (a : Addr) (p : Page) :
    s.pageOf a = some p ↔ (p.lo ≤ a.toNat ∧ a.toNat < p.lo + p.size) ∧
      ∃ before after, s.pages = before ++ p :: after ∧
        ∀ q ∈ before, ¬ (q.lo ≤ a.toNat ∧ a.toNat < q.lo + q.size) := by
  simp only [State.pageOf, List.find?_eq_some_iff_append, decide_eq_true_eq, Bool.not_eq_true',
    decide_eq_false_iff_not]

/-- A read of `n` bytes that succeeds gives `n` bytes, each the translation of its address (R54). -/
theorem State.readBytes_ok_iff (s : State) (la : Addr) (k n : Nat) (bs : List Byte) :
    s.readBytes la k n = .ok bs ↔
      bs.length = n ∧ ∀ i (h : i < bs.length), s.translate (s.byteAddr la (k + i)) = .ok bs[i] := by
  induction n generalizing k bs with
  | zero =>
    constructor
    · intro h
      simp only [State.readBytes, Except.ok.injEq] at h
      subst h
      simp
    · rintro ⟨h, -⟩
      rw [List.length_eq_zero_iff.1 h]
      rfl
  | succ n ih =>
    have tail : s.readBytes la k (n + 1) = .ok bs ↔
        ∃ b cs, bs = b :: cs ∧ s.translate (s.byteAddr la k) = .ok b ∧ s.readBytes la (k + 1) n = .ok cs := by
      rw [State.readBytes]
      cases s.translate (s.byteAddr la k) <;> cases s.readBytes la (k + 1) n <;> simp [eq_comm]
    rw [tail]
    constructor
    · rintro ⟨b, cs, rfl, hb, hcs⟩
      obtain ⟨hl, hall⟩ := (ih (k + 1) cs).1 hcs
      refine ⟨by simp [hl], fun i hi => ?_⟩
      cases i with
      | zero => simpa using hb
      | succ i => simpa [Nat.add_assoc, Nat.add_comm 1 i] using hall i (by simpa using hi)
    · rintro ⟨hl, hall⟩
      cases bs with
      | nil => simp at hl
      | cons b cs =>
        refine ⟨b, cs, rfl, hall 0 (by simp), (ih (k + 1) cs).2 ⟨by simpa using hl, fun i hi => ?_⟩⟩
        rw [Nat.add_assoc, Nat.add_comm 1 i]
        exact hall (i + 1) (by simpa using hi)

/-- A failing read answers the address and code of a byte that fails, and no byte that fails has a lower address
(R156 (3), D10). -/
theorem State.readBytes_error {s : State} {la a : Addr} {k n : Nat} {c : BitVec 32}
    (h : s.readBytes la k n = .error (a, c)) :
    (∃ i, i < n ∧ a = s.byteAddr la (k + i) ∧ s.translate a = .error c) ∧
      ∀ j, j < n → (∃ d, s.translate (s.byteAddr la (k + j)) = .error d) →
        a.toNat ≤ (s.byteAddr la (k + j)).toNat := by
  induction n generalizing k a c with
  | zero => simp [State.readBytes] at h
  | succ n ih =>
    have shift : ∀ i, s.byteAddr la (k + 1 + i) = s.byteAddr la (k + (i + 1)) := fun i => by
      rw [Nat.add_assoc, Nat.add_comm 1 i]
    rw [State.readBytes] at h
    split at h
    · cases h
    · rename_i b f hb hf
      cases h
      obtain ⟨⟨i, hi, ha, hc⟩, hmin⟩ := ih hf
      refine ⟨⟨i + 1, by omega, by rw [ha, shift], hc⟩, fun j hj hd => ?_⟩
      cases j with
      | zero => obtain ⟨d, hd⟩ := hd; rw [Nat.add_zero, hb] at hd; cases hd
      | succ j => rw [← shift] at hd ⊢; exact hmin j (by omega) hd
    · rename_i d bs hd hbs
      cases h
      refine ⟨⟨0, by omega, rfl, hd⟩, fun j hj he => ?_⟩
      cases j with
      | zero => exact Nat.le_refl _
      | succ j =>
        obtain ⟨e, he⟩ := he
        obtain ⟨hl, hall⟩ := (s.readBytes_ok_iff la (k + 1) n bs).1 hbs
        rw [← shift, hall j (by omega)] at he
        cases he
    · rename_i d f hd hf
      obtain ⟨⟨i, hi, ha, hc⟩, hmin⟩ := ih (a := f.1) (c := f.2) hf
      simp only [Except.error.injEq, lowerFailure] at h
      split at h
      · rename_i hle
        cases h
        refine ⟨⟨0, by omega, rfl, hd⟩, fun j hj he => ?_⟩
        cases j with
        | zero => exact Nat.le_refl _
        | succ j => rw [← shift] at he ⊢; exact Nat.le_trans hle (hmin j (by omega) he)
      · rename_i hle
        subst h
        refine ⟨⟨i + 1, by omega, by rw [← shift]; exact ha, hc⟩, fun j hj he => ?_⟩
        cases j with
        | zero => exact Nat.le_of_lt (Nat.lt_of_not_le hle)
        | succ j => rw [← shift] at he ⊢; exact hmin j (by omega) he

/-- A read fails exactly with the failing byte of the lowest address (R156 (3), D10). -/
theorem State.readBytes_error_iff (s : State) (la : Addr) (k n : Nat) (a : Addr) (c : BitVec 32) :
    s.readBytes la k n = .error (a, c) ↔
      (∃ i, i < n ∧ a = s.byteAddr la (k + i) ∧ s.translate a = .error c) ∧
        ∀ j, j < n → (∃ d, s.translate (s.byteAddr la (k + j)) = .error d) →
          a.toNat ≤ (s.byteAddr la (k + j)).toNat := by
  refine ⟨State.readBytes_error, ?_⟩
  rintro ⟨⟨i, hi, ha, hc⟩, hmin⟩
  cases h : s.readBytes la k n with
  | ok bs =>
    obtain ⟨hl, hall⟩ := (s.readBytes_ok_iff la k n bs).1 h
    rw [ha, hall i (by omega)] at hc
    cases hc
  | error f =>
    obtain ⟨b, d⟩ := f
    obtain ⟨⟨j, hj, hb, hd⟩, hmin'⟩ := State.readBytes_error h
    have h1 := hmin j hj ⟨d, by rw [← hb]; exact hd⟩
    have h2 := hmin' i hi ⟨c, by rw [← ha]; exact hc⟩
    have : b = a := BitVec.eq_of_toNat_eq (by rw [← hb] at h1; rw [← ha] at h2; omega)
    subst this
    rw [hc] at hd
    cases hd
    rfl

/-- A memory operand is read exactly when its segment check, the alignment of row 2, every translation and the
alignment checks pass (R54). -/
theorem State.memRead_ok_iff (s : State) (rule : AlignRule) (g : Seg) (ea : Addr) (n : Nat) (bs : List Byte) :
    s.memRead rule g ea n = .ok bs ↔
      s.segmentOk g ea (s.linearAddr g ea) n = true ∧
      (rule = .sse → aligned (s.linearAddr g ea) 16 = true) ∧
      s.readBytes (s.linearAddr g ea) 0 n = .ok bs ∧
      (s.alignmentCheckEnabled = true → rule = .mmx → aligned (s.linearAddr g ea) 8 = true) ∧
      (s.alignmentCheckEnabled = true → rule = .vector → aligned (s.linearAddr g ea) n = true) := by
  unfold State.memRead
  generalize s.linearAddr g ea = la
  cases h1 : s.segmentOk g ea la n
  · simp [h1]
  · by_cases h2 : rule = .sse ∧ aligned la 16 = false
    · simp [h1, h2]
    · cases h3 : s.readBytes la 0 n with
      | error x => simp [h1, h2, h3]
      | ok cs =>
        by_cases h4 : s.alignmentCheckEnabled = true ∧ rule = .mmx ∧ aligned la 8 = false
        · simp [h1, h3, h4]
        · by_cases h5 : s.alignmentCheckEnabled = true ∧ rule = .vector ∧ aligned la n = false
          · simp [h1, h3, h5]
          · simp only [h1, h2, h3, h4, h5, if_false, Bool.true_eq_false, Except.ok.injEq, true_and]
            constructor
            · rintro rfl
              refine ⟨fun h => ?_, rfl, fun h h' => ?_, fun h h' => ?_⟩
              · simpa [h] using h2
              · simpa [h, h'] using h4
              · simpa [h, h'] using h5
            · exact fun h => h.2.1

/-- What a memory read can raise: #SS or #GP, #PF with the code of a byte that does not translate, and #AC for row 1
only (R156). -/
theorem State.memRead_exc {s : State} {rule : AlignRule} {g : Seg} {ea : Addr} {n : Nat} {x : Exc}
    (h : s.memRead rule g ea n = .error (.exc x)) :
    x = .ss ∨ x = .gp ∨ (∃ c a, x = .pf c a ∧ s.translate a = .error c) ∨ (x = .ac ∧ rule = .mmx) := by
  unfold State.memRead at h
  simp only at h
  split at h
  · cases h
    cases g <;> simp [segmentExc]
  split at h
  · cases h
    simp
  split at h
  · rename_i a c hy
    cases h
    obtain ⟨⟨i, -, -, hc⟩, -⟩ := State.readBytes_error hy
    exact .inr (.inr (.inl ⟨c, a, rfl, hc⟩))
  · split at h
    · rename_i hac
      cases h
      exact .inr (.inr (.inr ⟨rfl, hac.2.1⟩))
    · split at h <;> cases h

end Sys2Proof.Machine
end

