-- ==== Sys2Proof/Laws/PerInstr.lean ====
section
/-! SUPPORT. What holds of every instruction, one lemma per constructor: an encoding has the length that R90 counts. -/

namespace Sys2Proof

/-- A displacement's bytes (R80). -/
theorem Disp.length_bytes (d : Disp) : d.bytes.length = d.len := by cases d <;> rfl

/-- ModRM, SIB and displacement bytes (R90). -/
theorem Rm.length_bytes (reg : BitVec 3) (r : Rm) : (r.bytes reg).length = r.len := by
  cases r <;> simp [Rm.bytes, Rm.len, Disp.length_bytes, le32Bytes] <;> omega

/-- A legacy form (R90). -/
theorem Legacy.length_bytes (e : Legacy) : e.bytes.length = e.len := by
  cases h : e.rex <;> simp [Legacy.bytes, Legacy.len, prefixBytes, Rm.length_bytes, h] <;> omega

/-- A VEX form (R90). -/
theorem Vex.length_bytes (l : Bool) (e : Vex) : (e.bytes l).length = e.len := by
  cases h : e.form <;> simp [Vex.bytes, Vex.payload, Vex.len, VexForm.len, prefixBytes, Rm.length_bytes, h] <;> omega

/-- An EVEX form (R90). -/
theorem Evex.length_bytes (w : Bool) (ll : BitVec 2) (e : Evex) : (e.bytes w ll).length = e.len := by
  simp [Evex.bytes, Evex.len, prefixBytes, Rm.length_bytes]
  omega

namespace Laws.EncodedLength

/-- The encoding of an instruction has the length of R90. -/
def Statement (i : Instr) : Prop := (encode i).length = i.len

theorem porMm (e : Legacy) : Statement (.porMm e) := e.length_bytes
theorem porXmm (e : Legacy) : Statement (.porXmm e) := e.length_bytes
theorem vporXmm (e : Vex) : Statement (.vporXmm e) := e.length_bytes _
theorem vporYmm (e : Vex) : Statement (.vporYmm e) := e.length_bytes _
theorem vpordXmm (e : Evex) : Statement (.vpordXmm e) := e.length_bytes _ _
theorem vpordYmm (e : Evex) : Statement (.vpordYmm e) := e.length_bytes _ _
theorem vpordZmm (e : Evex) : Statement (.vpordZmm e) := e.length_bytes _ _
theorem vporqXmm (e : Evex) : Statement (.vporqXmm e) := e.length_bytes _ _
theorem vporqYmm (e : Evex) : Statement (.vporqYmm e) := e.length_bytes _ _
theorem vporqZmm (e : Evex) : Statement (.vporqZmm e) := e.length_bytes _ _

end Laws.EncodedLength

end Sys2Proof
end

