-- ==== Sys2Proof/Laws/Step.lean ====
section
/-! SUPPORT. What an instruction, a step and a run can do when they complete, said once. -/

namespace Sys2Proof.Machine

/-- An address in a mode's width, as a number (R25, R53). -/
theorem wrapAddr_toNat (m : Mode) (a : Addr) :
    (wrapAddr m a).toNat = a.toNat % (match m with | .m64 => 2 ^ 64 | .m32 => 2 ^ 32) := by
  cases m
  · exact (Nat.mod_eq_of_lt a.isLt).symm
  · simp only [wrapAddr, BitVec.toNat_setWidth]
    have := a.isLt
    omega

/-- An instruction that completes writes one MMX register with its x87 effects (row 1), or one vector register (rows 2 to
10), and `pc`: nothing else. -/
theorem exec_next {i : Instr} {s t : State} (h : exec i s = .next t) :
    (∃ e v, i = .porMm e ∧ t = ((s.setMm e.mmDest v).mmxToX87 e.mmDest).advance i.len) ∨
    (∃ d v, t = (s.setZmm d v).advance i.len) := by
  cases i with
  | porMm e =>
    obtain ⟨-, v, -, rfl⟩ := runForm_next_iff.1 (show runForm _ _ _ _ = _ from h)
    exact .inl ⟨e, _, rfl, rfl⟩
  | _ e =>
    obtain ⟨-, v, -, rfl⟩ := runForm_next_iff.1 (show runForm _ _ _ _ = _ from h)
    exact .inr ⟨_, _, rfl⟩

/-- A step that completes has fetched inside the text and run the instruction that its bytes decode to (R186). -/
theorem step_next {s t : State} (h : step s = .next t) :
    ∃ i, decode s.mode (s.text.bytes.drop (s.pc.toNat - s.text.base.toNat)) = .instr i ∧ exec i s = .next t ∧
      s.text.base.toNat ≤ s.pc.toNat ∧ s.pc.toNat < s.text.base.toNat + s.text.bytes.length := by
  unfold step State.fetchBytes at h
  split at h
  · cases h
  rename_i bytes hb
  split at hb
  · rename_i hin
    cases hb
    split at h
    · exact ⟨_, by assumption, h, hin⟩
    · cases h
    · cases h
  · split at hb <;> cases hb

/-- A run of a further step is a step and then the run. -/
theorem run_next_succ (M : Host.Core) {n : Nat} {s t : M.State} (h : M.run (n + 1) s = .next t) :
    ∃ s', M.step s = .next s' ∧ M.run n s' = .next t := by
  rw [Host.Core.run] at h
  split at h
  · exact ⟨_, by assumption, h⟩
  · cases h
  · cases h

end Sys2Proof.Machine
end

