-- ==== Sys2Proof/Tests/Slice0.lean ====
section
/-! SUPPORT. Our own tests: the well-formedness checks refuse ill-formed terms; words of the spec decode to what they stand
for; single steps give the values of spec/95_test_vectors.md (the id of the vector is in the docstring); and, for every
statement that has hypotheses, a state and operands that meet them. -/

namespace Sys2Proof.Tests

open Sys2Proof.Machine Sys2Proof.Claims

-- The kernel checks these theorems one at a time: elaborated together, each would hold a thread while it waits for it.
set_option Elab.async false

/-! ### Well-formedness: one ill-formed term for each check -/

theorem test_wf_two_segment_overrides :
    (Instr.porMm ⟨[.seg .fs, .seg .gs], none, 0#3, .reg 1#3⟩).wf .m64 = false := by decide
theorem test_wf_lock_before_legacy : (Instr.porMm ⟨[.lock], none, 0#3, .reg 1#3⟩).wf .m64 = false := by decide
theorem test_wf_row1_with_66 : (Instr.porMm ⟨[.opSize], none, 0#3, .reg 1#3⟩).wf .m64 = false := by decide
theorem test_wf_row2_without_66 : (Instr.porXmm ⟨[], none, 0#3, .reg 1#3⟩).wf .m64 = false := by decide
theorem test_wf_67_in_m32 : (Instr.porMm ⟨[.addrSize], none, 0#3, .reg 1#3⟩).wf .m32 = false := by decide
theorem test_wf_rex_in_m32 :
    (Instr.porMm ⟨[], some ⟨false, false, false, false⟩, 0#3, .reg 1#3⟩).wf .m32 = false := by decide
theorem test_wf_base_needs_sib : (Instr.porMm ⟨[], none, 0#3, .base 4#3 .none⟩).wf .m64 = false := by decide
theorem test_wf_base_needs_disp : (Instr.porMm ⟨[], none, 0#3, .base 5#3 .none⟩).wf .m64 = false := by decide
theorem test_wf_sib_base_needs_disp :
    (Instr.porMm ⟨[], none, 0#3, .sib 0#2 0#3 5#3 .none⟩).wf .m64 = false := by decide
theorem test_wf_66_before_vex :
    (Instr.vporXmm ⟨[.opSize], .two, false, 2#4, 1#3, .reg 3#3⟩).wf .m64 = false := by decide
theorem test_wf_vex_high_register_in_m32 :
    (Instr.vporXmm ⟨[], .two, false, 8#4, 1#3, .reg 3#3⟩).wf .m32 = false := by decide
theorem test_wf_evex_high_register_in_m32 :
    (Instr.vpordXmm ⟨[], false, false, false, true, 2#4, false, false, false, 0#3, 1#3, .reg 3#3⟩).wf .m32
      = false := by decide
theorem test_wf_zeroing_without_mask :
    (Instr.vpordXmm ⟨[], false, false, false, false, 2#4, false, true, false, 0#3, 1#3, .reg 3#3⟩).wf .m64
      = false := by decide
theorem test_wf_broadcast_register :
    (Instr.vpordXmm ⟨[], false, false, false, false, 2#4, false, false, true, 0#3, 1#3, .reg 3#3⟩).wf .m64
      = false := by decide

/-! ### Decoding: words written out from the spec's encodings -/

/-- V1.1: ModRM C1 = 11 000 001. -/
theorem test_decode_por_mm :
    decode .m64 [0x0F#8, 0xEB#8, 0xC1#8]
      = .instr (.porMm ⟨[], none, 0#3, .reg 1#3⟩) := by decide +kernel
/-- V1.6: ModRM 7C, SIB 24, disp8 08. -/
theorem test_decode_por_mm_sib :
    decode .m64 [0x0F#8, 0xEB#8, 0x7C#8, 0x24#8, 0x08#8]
      = .instr (.porMm ⟨[], none, 7#3, .sib 0#2 4#3 4#3 (.d8 8#8)⟩) := by decide +kernel
/-- V2.10: REX 47 = R, X, B; SIB D1; disp8 F0. -/
theorem test_decode_por_xmm_rex :
    decode .m64 [0x66#8, 0x47#8, 0x0F#8, 0xEB#8, 0x44#8, 0xD1#8, 0xF0#8]
      = .instr (.porXmm ⟨[.opSize], some ⟨false, true, true, true⟩, 0#3, .sib 3#2 2#3 1#3 (.d8 0xF0#8)⟩) := by decide +kernel
/-- V2.8: mod 00, rm 101, disp32 0x100. -/
theorem test_decode_por_xmm_rip :
    decode .m64 [0x66#8, 0x0F#8, 0xEB#8, 0x05#8, 0x00#8, 0x01#8, 0x00#8, 0x00#8]
      = .instr (.porXmm ⟨[.opSize], none, 0#3, .dispOnly 0x100#32⟩) := by decide +kernel
/-- V3.4: C4 form, B = 1, vvvv = 2. -/
theorem test_decode_vpor_xmm :
    decode .m64 [0xC4#8, 0xC1#8, 0x69#8, 0xEB#8, 0xCB#8]
      = .instr (.vporXmm ⟨[], .three false true false, false, 2#4, 1#3, .reg 3#3⟩) := by decide +kernel
/-- V4.3: C5 form, R = 1, vvvv = 15, L = 1. -/
theorem test_decode_vpor_ymm :
    decode .m64 [0xC5#8, 0x05#8, 0xEB#8, 0x00#8]
      = .instr (.vporYmm ⟨[], .two, true, 15#4, 0#3, .base 0#3 .none⟩) := by decide +kernel
/-- V5.6: broadcast, aaa = 2. -/
theorem test_decode_vpord_xmm :
    decode .m64 [0x62#8, 0xF1#8, 0x6D#8, 0x1A#8, 0xEB#8, 0x08#8]
      = .instr (.vpordXmm ⟨[], false, false, false, false, 2#4, false, false, true, 2#3, 1#3, .base 0#3 .none⟩) := by decide +kernel
/-- V5.7: vvvv = 6, L'L = 01, aaa = 3. -/
theorem test_decode_vpord_ymm :
    decode .m64 [0x62#8, 0xF1#8, 0x4D#8, 0x2B#8, 0xEB#8, 0x2E#8]
      = .instr (.vpordYmm ⟨[], false, false, false, false, 6#4, false, false, false, 3#3, 5#3, .base 6#3 .none⟩) := by decide +kernel
/-- V5.16: X = 1. -/
theorem test_decode_vpord_zmm :
    decode .m64 [0x62#8, 0xB1#8, 0x6D#8, 0x48#8, 0xEB#8, 0xCB#8]
      = .instr (.vpordZmm ⟨[], false, true, false, false, 2#4, false, false, false, 0#3, 1#3, .reg 3#3⟩) := by decide +kernel
/-- V6.5: z = 1, aaa = 1. -/
theorem test_decode_vporq_xmm :
    decode .m64 [0x62#8, 0xF1#8, 0xED#8, 0x89#8, 0xEB#8, 0xCB#8]
      = .instr (.vporqXmm ⟨[], false, false, false, false, 2#4, false, true, false, 1#3, 1#3, .reg 3#3⟩) := by decide +kernel
/-- V6.7: R' = 1, V' = 1, b = 1, disp8 08. -/
theorem test_decode_vporq_ymm :
    decode .m64 [0x62#8, 0xE1#8, 0xED#8, 0x30#8, 0xEB#8, 0x4B#8, 0x08#8]
      = .instr (.vporqYmm ⟨[], false, false, false, true, 2#4, true, false, true, 0#3, 1#3, .base 3#3 (.d8 8#8)⟩) := by decide +kernel
/-- V6.8: R, X, B, R', V' all 1, aaa = 7. -/
theorem test_decode_vporq_zmm :
    decode .m64 [0x62#8, 0x01#8, 0x95#8, 0x47#8, 0xEB#8, 0xF4#8]
      = .instr (.vporqZmm ⟨[], true, true, true, true, 13#4, true, false, false, 7#3, 6#3, .reg 4#3⟩) := by decide +kernel

/-- X1, X3, X4, X6 to X9: the bytes that raise #UD at decoding. -/
theorem test_decode_ud :
    [[0xF0#8, 0x0F#8, 0xEB#8, 0x00#8],
      [0x66#8, 0xC5#8, 0xE9#8, 0xEB#8, 0xCB#8],
      [0x40#8, 0xC5#8, 0xE9#8, 0xEB#8, 0xCB#8],
      [0x62#8, 0xF1#8, 0x6D#8, 0x88#8, 0xEB#8, 0xCB#8],
      [0x62#8, 0xF1#8, 0x6D#8, 0x68#8, 0xEB#8, 0xCB#8],
      [0x62#8, 0xF5#8, 0x6D#8, 0x48#8, 0xEB#8, 0xCB#8],
      [0x62#8, 0xF1#8, 0x69#8, 0x48#8, 0xEB#8, 0xCB#8]].map (decode .m64)
      = List.replicate 7 .ud := by decide +kernel
/-- X2, X5, X10 to X15: the bytes that are refused in M64. -/
theorem test_decode_refused :
    [[0xF3#8, 0x0F#8, 0xEB#8, 0xC1#8],
      [0x62#8, 0xF1#8, 0x6D#8, 0x18#8, 0xEB#8, 0xCB#8],
      [0xC5#8, 0xE8#8, 0xEB#8, 0xCB#8],
      [0xC4#8, 0xE2#8, 0x69#8, 0xEB#8, 0xCB#8],
      [0x0F#8, 0xEC#8, 0xC1#8],
      [0x66#8, 0x66#8, 0x0F#8, 0xEB#8, 0xC1#8],
      [0x48#8, 0x66#8, 0x0F#8, 0xEB#8, 0xC1#8],
      [0x0F#8, 0xEB#8]].map (decode .m64)
      = [.refused .repBeforeLegacy, .refused .broadcastRegister, .refused .notInScope, .refused .notInScope,
        .refused .notInScope, .refused .repeatedPrefix, .refused .rexMisplaced, .refused .truncated] := by
  decide +kernel
/-- X16 to X19: the bytes that are refused in M32. -/
theorem test_decode_refused_m32 :
    [[0x67#8, 0x0F#8, 0xEB#8, 0x00#8],
      [0xC4#8, 0xC1#8, 0x69#8, 0xEB#8, 0xCB#8],
      [0xC5#8, 0x69#8, 0xEB#8, 0xCB#8],
      [0x44#8, 0x0F#8, 0xEB#8, 0xC1#8]].map (decode .m32)
      = [.refused .addr16, .refused .highRegister, .refused .lesLdsBound, .refused .notInScope] := by
  decide +kernel
/-- The table's words of rows 1 and 2 (bits 23:8 = 0FEB, bits 31:8 = 660FEB), the other bits 0. -/
theorem test_table_rows :
    decodeTableWord 24 0x0FEB00 = some (.porMm ⟨[], none, 0#3, .base 0#3 .none⟩) ∧
      decodeTableWord 32 0x660FEB00 = some (.porXmm ⟨[.opSize], none, 0#3, .base 0#3 .none⟩) := by
  decide +kernel
/-- A table word runs as the first instruction after reset. -/
theorem test_table_word_runs : step (State.reset.withFetchWord 24 0x0FEBC1)
    = exec (.porMm ⟨[], none, 0#3, .reg 1#3⟩) (State.reset.withFetchWord 24 0x0FEBC1) := rfl

/-! ### One step on small states -/

/-- What `f` reads of a next state; `none` where the step stops. -/
def readNext {α : Type} (o : Host.Outcome State Fault Refusal) (f : State → α) : Option α :=
  match o with
  | .next t => some (f t)
  | .fault _ => none
  | .refused _ => none

/-- The fault a step ends in. -/
def faultOf (o : Host.Outcome State Fault Refusal) : Option Fault :=
  match o with
  | .next _ => none
  | .fault f => some f
  | .refused _ => none

/-- The refusal a step ends in. -/
def refusalOf (o : Host.Outcome State Fault Refusal) : Option Refusal :=
  match o with
  | .next _ => none
  | .fault _ => none
  | .refused r => some r

theorem next_of_readNext {o : Host.Outcome State Fault Refusal} {t : State} (h : readNext o id = some t) :
    o = .next t := by
  cases o <;> simp_all [readNext]

theorem fault_of_faultOf {o : Host.Outcome State Fault Refusal} {f : Fault} (h : faultOf o = some f) :
    o = .fault f := by
  cases o <;> simp_all [faultOf]

/-- `s` with the program text `bs` at its `pc`. -/
def withText (s : State) (bs : List Byte) : State := s.setText ⟨s.pc, bs⟩

/-- `s` with `x[n] = v`. -/
def withGpr (s : State) (n : Fin 16) (v : BitVec 64) : State := { s with x := s.x.set n v }

/-- `s` with `K[n] = v`. -/
def withMask (s : State) (n : Fin 8) (v : BitVec 64) : State := { s with k := s.k.set n v }

/-- `s` with `bs` mapped from address `a` on. -/
def withBytes (s : State) (a : Nat) (bs : List Byte) : State := { s with mem := s.mem.writeBytes a bs }

/-- The launch state with the 64 bytes 00, 01, ..., 3F mapped at 0x2000 and `x[0] = 0x2000`. -/
def demo : State := withBytes (withGpr State.reset 0 0x2000#64) 0x2000 ((List.range 64).map (BitVec.ofNat 8))

/-- The same in M32. -/
def demo32 : State := { demo with mode := .m32 }

/-- V1.1, with the x87 effects of R29. -/
theorem test_por_mm :
    readNext (step (withText ((State.reset.setMm 0#3 0x00FF00FF00FF00FF#64).setMm 1#3 0x0F0F0F0F0F0F0F0F#64)
      [0x0F#8, 0xEB#8, 0xC1#8])) (fun t => (t.mmAt 0#3, t.mmAt 1#3, t.pc, t.x87.top, t.x87.tags, t.x87Hi 0#3))
      = some (0x0FFF0FFF0FFF0FFF#64, 0x0F0F0F0F0F0F0F0F#64, 0x1003#64, 0#3, 0#16, 0xFFFF#16) := by decide +kernel
/-- V1.5: little-endian, no alignment requirement. -/
theorem test_por_mm_memory :
    readNext (step (withText (withBytes (withGpr (State.reset.setMm 1#3 0x00000000FFFF0000#64) 3 0x2003#64) 0x2003 [0x11#8, 0x22#8, 0x33#8, 0x44#8, 0x55#8, 0x66#8, 0x77#8, 0x88#8])
      [0x0F#8, 0xEB#8, 0x0B#8])) (fun t => (t.mmAt 1#3, t.pc))
      = some (0x88776655FFFF2211#64, 0x1003#64) := by decide +kernel
/-- V2.1: bits 511:128 kept. -/
theorem test_por_xmm_keeps_upper :
    readNext (step (withText ((State.reset.setZmm 0#5 (5#384 ++ 0x0000FFFF0000FFFF0000FFFF0000FFFF#128)).setZmm 1#5 0x123456789ABCDEF00FEDCBA987654321#512)
      [0x66#8, 0x0F#8, 0xEB#8, 0xC1#8])) (fun t => (t.zmmAt 0#5, t.pc))
      = some (5#384 ++ 0x1234FFFF9ABCFFFF0FEDFFFF8765FFFF#128, 0x1004#64) := by decide +kernel
/-- V2.6: a memory operand of row 2 that is not a multiple of 16. -/
theorem test_por_xmm_misaligned :
    faultOf (step (withText (withGpr demo 3 0x2008#64) [0x66#8, 0x0F#8, 0xEB#8, 0x03#8]))
      = some (.generalProtection 0x1000#64 0#32) := by decide +kernel
/-- V3.1: bits 511:128 cleared. -/
theorem test_vpor_xmm_clears_upper :
    readNext (step (withText (((State.reset.setZmm 1#5 (BitVec.allOnes 512)).setZmm 2#5 0x0000FFFF0000FFFF0000FFFF0000FFFF#512).setZmm 3#5 0x123456789ABCDEF00FEDCBA987654321#512)
      [0xC5#8, 0xE9#8, 0xEB#8, 0xCB#8])) (fun t => (t.zmmAt 1#5, t.pc))
      = some (0x1234FFFF9ABCFFFF0FEDFFFF8765FFFF#512, 0x1004#64) := by decide +kernel
/-- V3.2: not a no-op. -/
theorem test_vpor_xmm_same_register :
    readNext (step (withText (State.reset.setZmm 1#5 (BitVec.allOnes 512))
      [0xC5#8, 0xF1#8, 0xEB#8, 0xC9#8])) (fun t => t.zmmAt 1#5)
      = some ((BitVec.allOnes 128).setWidth 512) := by decide +kernel
/-- V4.1. -/
theorem test_vpor_ymm :
    readNext (step (withText (((State.reset.setZmm 0#5 (BitVec.allOnes 512)).setZmm 1#5 0x00FF00FF00FF00FF00FF00FF00FF00FF00FF00FF00FF00FF00FF00FF00FF00FF#512).setZmm 2#5 0x0F0F0F0F0F0F0F0F0F0F0F0F0F0F0F0F0F0F0F0F0F0F0F0F0F0F0F0F0F0F0F0F#512)
      [0xC5#8, 0xF5#8, 0xEB#8, 0xC2#8])) (fun t => t.zmmAt 0#5)
      = some 0x0FFF0FFF0FFF0FFF0FFF0FFF0FFF0FFF0FFF0FFF0FFF0FFF0FFF0FFF0FFF0FFF#512 := by decide +kernel
/-- V4.2: 32 misaligned bytes. -/
theorem test_vpor_ymm_memory :
    readNext (step (withText ((withBytes (withGpr State.reset 0 0x3001#64) 0x3001
      [0x03#8, 0x0A#8, 0x11#8, 0x18#8, 0x1F#8, 0x26#8, 0x2D#8, 0x34#8, 0x3B#8, 0x42#8, 0x49#8, 0x50#8, 0x57#8, 0x5E#8, 0x65#8, 0x6C#8, 0x73#8, 0x7A#8, 0x81#8, 0x88#8, 0x8F#8, 0x96#8, 0x9D#8, 0xA4#8, 0xAB#8, 0xB2#8, 0xB9#8, 0xC0#8, 0xC7#8, 0xCE#8, 0xD5#8, 0xDC#8]).setZmm 1#5
      0x00FF00FF00FF00FF00FF00FF00FF00FF00FF00FF00FF00FF00FF00FF00FF00FF#512)
      [0xC5#8, 0xF5#8, 0xEB#8, 0x00#8])) (fun t => t.zmmAt 0#5)
      = some 0xDCFFCEFFC0FFB2FFA4FF96FF88FF7AFF6CFF5EFF50FF42FF34FF26FF18FF0AFF#512 := by decide +kernel
/-- V5.2: K[2] = 0101, merging. -/
theorem test_vpord_xmm_merging :
    readNext (step (withText (withMask (((State.reset.setZmm 1#5 (BitVec.replicate 64 0xAA#8)).setZmm 2#5 0x11111111111111111111111111111111#512).setZmm 3#5
      0x22222222222222222222222222222222#512) 2 5#64)
      [0x62#8, 0xF1#8, 0x6D#8, 0x0A#8, 0xEB#8, 0xCB#8])) (fun t => t.zmmAt 1#5)
      = some 0xAAAAAAAA33333333AAAAAAAA33333333#512 := by decide +kernel
/-- V5.6. -/
theorem test_vpord_xmm_broadcast :
    readNext (step (withText (withBytes (withMask ((State.reset.setZmm 1#5 (BitVec.replicate 64 0xAA#8)).setZmm 2#5
      0x00000004000000030000000200000001#512) 2 5#64) 0 [0xF0#8, 0x00#8, 0x00#8, 0x00#8])
      [0x62#8, 0xF1#8, 0x6D#8, 0x1A#8, 0xEB#8, 0x08#8])) (fun t => t.zmmAt 1#5)
      = some 0xAAAAAAAA000000F3AAAAAAAA000000F1#512 := by decide +kernel
/-- R132 and R137: K[1] = 0x180 writes doubleword 7 only (bit 8 is above KL); zeroing. -/
theorem test_vpord_ymm_mask :
    readNext (step (withText (withMask (((State.reset.setZmm 1#5 (BitVec.replicate 64 0xAA#8)).setZmm 2#5 0x11111111111111111111111111111111#512).setZmm 3#5
      (BitVec.allOnes 512)) 1 0x180#64)
      [0x62#8, 0xF1#8, 0x6D#8, 0xA9#8, 0xEB#8, 0xCB#8])) (fun t => t.zmmAt 1#5)
      = some (0xFFFFFFFF#512 <<< 224) := by decide +kernel
/-- V5.8. -/
theorem test_vpord_zmm_zeroing :
    readNext (step (withText (withMask ((State.reset.setZmm 2#5
      0x0000010F0000010E0000010D0000010C0000010B0000010A00000109000001080000010700000106000001050000010400000103000001020000010100000100#512).setZmm 3#5
      0x00100000000F0000000E0000000D0000000C0000000B0000000A0000000900000008000000070000000600000005000000040000000300000002000000010000#512) 1 0xFF#64)
      [0x62#8, 0xF1#8, 0x6D#8, 0xC9#8, 0xEB#8, 0xCB#8])) (fun t => t.zmmAt 1#5)
      = some 0x0008010700070106000601050005010400040103000301020002010100010100#512 := by decide +kernel
/-- V5.18 with K[1] = 2: dword 1 kept, the others 0. -/
theorem test_vpord_zmm_same_register :
    readNext (step (withText (withMask (State.reset.setZmm 1#5 (BitVec.allOnes 512)) 1 2#64)
      [0x62#8, 0xF1#8, 0x75#8, 0xC9#8, 0xEB#8, 0xC9#8])) (fun t => t.zmmAt 1#5)
      = some 0xFFFFFFFF00000000#512 := by decide +kernel
/-- V6.2. -/
theorem test_vporq_xmm_merging :
    readNext (step (withText (withMask (((State.reset.setZmm 1#5 (BitVec.replicate 64 0xAA#8)).setZmm 2#5 0x11111111111111111111111111111111#512).setZmm 3#5
      0x22222222222222222222222222222222#512) 2 5#64)
      [0x62#8, 0xF1#8, 0xED#8, 0x0A#8, 0xEB#8, 0xCB#8])) (fun t => t.zmmAt 1#5)
      = some 0xAAAAAAAAAAAAAAAA3333333333333333#512 := by decide +kernel
/-- V6.5. -/
theorem test_vporq_xmm_zeroing :
    readNext (step (withText (withMask ((State.reset.setZmm 2#5 0x00000000000000FF000000000000FF00#512).setZmm 3#5 0x0F0000000000000000000000000000F0#512) 1 2#64)
      [0x62#8, 0xF1#8, 0xED#8, 0x89#8, 0xEB#8, 0xCB#8])) (fun t => t.zmmAt 1#5)
      = some 0x0F000000000000FF0000000000000000#512 := by decide +kernel
/-- V6.7: disp8 08 scaled by 8. -/
theorem test_vporq_ymm_broadcast :
    readNext (step (withText (withBytes (withGpr (State.reset.setZmm 18#5 0x0000000000000400000000000000030000000000000002000000000000000100#512) 3 0x2000#64)
      0x2040 [0x01#8, 0x00#8, 0x00#8, 0x00#8, 0x00#8, 0x00#8, 0x00#8, 0x80#8])
      [0x62#8, 0xE1#8, 0xED#8, 0x30#8, 0xEB#8, 0x4B#8, 0x08#8])) (fun t => (t.zmmAt 17#5, t.pc))
      = some (0x8000000000000401800000000000030180000000000002018000000000000101#512, 0x1007#64) := by decide +kernel
/-- V6.8: K[7] = 1, only quadword 0 changes. -/
theorem test_vporq_zmm_merging :
    readNext (step (withText (withMask (((State.reset.setZmm 30#5 (BitVec.replicate 64 0x55#8)).setZmm 29#5 0x1000#512).setZmm 28#5 (BitVec.allOnes 512 <<< 63)) 7 1#64)
      [0x62#8, 0x01#8, 0x95#8, 0x47#8, 0xEB#8, 0xF4#8])) (fun t => t.zmmAt 30#5)
      = some (BitVec.replicate 56 0x55#8 ++ 0x8000000000001000#64) := by decide +kernel
/-- P5 in M32, its second instruction: broadcast quadword. -/
theorem test_m32_broadcast :
    readNext (step (withText (withBytes (withGpr (State.setZmm { State.reset with mode := .m32 } 7#5
        0x11111111111111112222222222222222#512) 0 0x2010#64) 0x2010 [0x00#8, 0x01#8, 0x02#8, 0x03#8, 0x04#8, 0x05#8, 0x06#8, 0x07#8])
      [0x62#8, 0xF1#8, 0xC5#8, 0x18#8, 0xEB#8, 0x08#8])) (fun t => (t.zmmAt 1#5, t.pc))
      = some (0x17171515131311112726272623222322#512, 0x1006#64) := by decide +kernel
/-- X28: a masked-off element still faults. -/
theorem test_no_fault_suppression :
    faultOf (step (withText State.reset [0x62#8, 0xF1#8, 0x6D#8, 0x09#8, 0xEB#8, 0x08#8]))
      = some (.pageFault 0x1000#64 0#32 0#64) := by decide +kernel
/-- V2.11: a non-canonical address through DS, and through SS with RBP as base. -/
theorem test_non_canonical :
    faultOf (step (withText (withGpr State.reset 0 0x0000800000000000#64) [0x66#8, 0x0F#8, 0xEB#8, 0x00#8]))
        = some (.generalProtection 0x1000#64 0#32) ∧
      faultOf (step (withText (withGpr State.reset 5 0x0000800000000000#64) [0x66#8, 0x0F#8, 0xEB#8, 0x45#8, 0x00#8]))
        = some (.stackFault 0x1000#64 0#32) := by decide +kernel
/-- The end of the text ends the run (R186). -/
theorem test_end_of_text : refusalOf (step State.reset) = some .endOfText := by decide +kernel

/-! ### Witnesses: the hypotheses of the statements can be met

One theorem per statement that has hypotheses, named after it; it meets all of them together, clause by clause. -/

/-- `POR` with a register source; DEST 0, source 1. -/
def mmReg : Legacy := ⟨[], none, 0#3, .reg 1#3⟩
/-- `POR` with the memory source at `x[0]`. -/
def mmMem : Legacy := ⟨[], none, 0#3, .base 0#3 .none⟩
/-- `POR xmm15, xmm9`: REX.R and REX.B set. -/
def xmmReg : Legacy := ⟨[.opSize], some ⟨false, true, false, true⟩, 7#3, .reg 1#3⟩
/-- `POR xmm0` with the memory source at `x[0]`. -/
def xmmMem : Legacy := ⟨[.opSize], none, 0#3, .base 0#3 .none⟩
/-- `VPOR` with a register source. -/
def vexReg : Vex := ⟨[], .three false true false, false, 2#4, 1#3, .reg 3#3⟩
/-- `VPOR` with the memory source at `x[0]`. -/
def vexMem : Vex := ⟨[], .two, true, 15#4, 7#3, .base 0#3 .none⟩
/-- An EVEX form with a register source: DEST 17, SRC1 18, SRC2 19. -/
def evexReg : Evex := ⟨[], false, true, false, true, 2#4, true, false, false, 0#3, 1#3, .reg 3#3⟩
/-- The same with merging-masking under K[7]. -/
def evexRegMerge : Evex := { evexReg with aaa := 7#3 }
/-- The same with zeroing-masking under K[1]. -/
def evexRegZero : Evex := { evexReg with z := true, aaa := 1#3 }
/-- An EVEX form with the memory source at `x[0]`. -/
def evexMem : Evex := { evexReg with rm := .base 0#3 .none }
/-- An EVEX form that broadcasts one element at `x[0]`. -/
def evexBcast : Evex := { evexMem with bcast := true }

/-- `POR mm0` with a displacement alone: in M32 the address 0x2000. -/
def mmAbs : Legacy := ⟨[], none, 0#3, .dispOnly 0x2000#32⟩

/-- Every constructor with a register source. -/
def registerForms : List Instr :=
  [.porMm mmReg, .porXmm xmmReg, .vporXmm vexReg, .vporYmm vexReg, .vpordXmm evexReg, .vpordYmm evexRegMerge,
    .vpordZmm evexRegZero, .vporqXmm evexReg, .vporqYmm evexRegMerge, .vporqZmm evexRegZero]

/-- Every constructor with a memory source, the EVEX ones with and without broadcast. -/
def memoryForms : List Instr :=
  [.porMm mmMem, .porXmm xmmMem, .vporXmm vexMem, .vporYmm vexMem, .vpordXmm evexMem, .vpordYmm evexMem,
    .vpordZmm evexMem, .vporqXmm evexMem, .vporqYmm evexMem, .vporqZmm evexMem, .vpordXmm evexBcast,
    .vpordYmm evexBcast, .vpordZmm evexBcast, .vporqXmm evexBcast, .vporqYmm evexBcast, .vporqZmm evexBcast]

/-- `demo` in M32 with the text `POR mm0, mm1`. -/
def demo32Text : State := withText demo32 [0x0F#8, 0xEB#8, 0xC1#8]

/-- `demo` with `x[0] = 0x2001`, alignment checking enabled and CPL 3. -/
def demoAligned : State :=
  { withGpr demo 0 0x2001#64 with
    env := { launchEnv with cr0AM := true, cpl := 3 }
    rflags := 0x40002#64 }

/-- `demo32` with a limit of 0x2006 on DS and SS. -/
def demoLimit : State :=
  { demo32 with
    segs :=
      { demo32.segs with
        ds := ⟨0#64, some 0x2006#32, true⟩
        ss := ⟨0#64, some 0x2006#32, true⟩ } }

/-- A general register enables nothing. -/
theorem enabled_withGpr {i : Instr} {s : State} (h : Enabled i s) (n : Fin 16) (v : BitVec 64) :
    Enabled i (withGpr s n v) := by
  cases i <;> exact h

theorem memoryForms_enabled : ∀ i ∈ memoryForms, Enabled i demo := by
  simp only [memoryForms, List.forall_mem_cons, Enabled, EvexEnabled, VexEnabled, MmxEnabled, SseEnabled]
  and_intros <;> first | decide +kernel | exact fun _ h => absurd h List.not_mem_nil

theorem witness_DecodeOfEncode :
    (∀ i ∈ registerForms ++ memoryForms, WellFormed .m64 i) ∧ WellFormed .m32 (.porMm mmAbs) := by
  decide +kernel
theorem witness_DecodedBytesAreTheEncoding :
    decode .m64 [0x62#8, 0xF1#8, 0x6D#8, 0x1A#8, 0xEB#8, 0x08#8]
      = .instr (.vpordXmm ⟨[], false, false, false, false, 2#4, false, false, true, 2#3, 1#3, .base 0#3 .none⟩) ∧
    decode .m32 [0x0F#8, 0xEB#8, 0xC1#8, 0x90#8] = .instr (.porMm mmReg) := by decide +kernel
/-- The longest encoding has 13 bytes, the shortest of row 1 has 3. -/
theorem witness_EncodingLengthBounds :
    WellFormed .m64 (.vpordZmm { evexReg with
      prefixes := [.seg .fs, .addrSize], rm := .sib 3#2 1#3 2#3 (.d32 5#32) }) ∧
    Instr.len (.vpordZmm { evexReg with
      prefixes := [.seg .fs, .addrSize], rm := .sib 3#2 1#3 2#3 (.d32 5#32) }) = 13 ∧
    WellFormed .m32 (.porMm mmReg) ∧ Instr.len (.porMm mmReg) = 3 := by decide +kernel
theorem witness_LockBeforeLegacyIsUd :
    (prefixGroupsDistinct [.lock, .opSize] = true ∧ LegacyPrefix.lock ∈ [LegacyPrefix.lock, .opSize]) ∧
    (prefixGroupsDistinct [.opSize, .repne] = true ∧ LegacyPrefix.lock ∉ [LegacyPrefix.opSize, .repne] ∧
      LegacyPrefix.repne ∈ [LegacyPrefix.opSize, .repne]) ∧
    (prefixGroupsDistinct [.rep] = true ∧ LegacyPrefix.lock ∉ [LegacyPrefix.rep] ∧
      LegacyPrefix.rep ∈ [LegacyPrefix.rep]) := by decide +kernel
theorem witness_BadPrefixBeforeVexIsUd :
    ([LegacyPrefix.opSize, .repne, .rep, .lock].all fun p => prefixGroupsDistinct [.seg .es, p]) = true ∧
    (0xE9#8).extractLsb' 6 2 = 3#2 := by decide +kernel
/-- A form of each of the three first bytes; no legacy byte, and `66` and an override, before the REX byte. -/
theorem witness_RexBeforeVexIsUd :
    prefixGroupsDistinct [] = true ∧ prefixGroupsDistinct [.opSize, .seg .fs] = true ∧
    WellFormed .m64 (.vporXmm vexMem) ∧ (encode (.vporXmm vexMem)).head? = some 0xC5#8 ∧
    WellFormed .m64 (.vporYmm vexReg) ∧ (encode (.vporYmm vexReg)).head? = some 0xC4#8 ∧
    WellFormed .m64 (.vporqZmm evexBcast) ∧ (encode (.vporqZmm evexBcast)).head? = some 0x62#8 := by decide +kernel
/-- X7, X8 and X9 of the spec, and P0[3] = 1. -/
theorem witness_ReservedEvexIsUd :
    ((0xF5#8).extractLsb' 2 2 ≠ 0#2 ∧ (0xF5#8).extractLsb' 6 2 = 3#2) ∧ (0xF9#8).extractLsb' 2 2 ≠ 0#2 ∧
    (0x69#8).getLsbD 2 = false ∧
    ((0xF1#8).extractLsb' 0 4 = 1#4 ∧ (0x6D#8).extractLsb' 0 3 = 5#3 ∧ (0x68#8).extractLsb' 5 2 = 3#2) ∧
    ((0x88#8).getLsbD 7 = true ∧ (0x88#8).extractLsb' 0 3 = 0#3) := by decide +kernel
/-- X5, and the same with z = 1 and aaa = 1. -/
theorem witness_BroadcastRegisterIsRefused :
    ((0xF1#8).extractLsb' 0 4 = 1#4 ∧ (0x6D#8).extractLsb' 0 3 = 5#3 ∧ (0x18#8).extractLsb' 5 2 ≠ 3#2 ∧
      (0x18#8).getLsbD 7 = false ∧ (0x18#8).getLsbD 4 = true ∧ (0xCB#8).extractLsb' 6 2 = 3#2) ∧
    ((0x99#8).extractLsb' 5 2 ≠ 3#2 ∧ (0x99#8).extractLsb' 0 3 ≠ 0#3 ∧ (0x99#8).getLsbD 4 = true) := by
  decide +kernel

theorem witness_StepRunsDecoded :
    demo32Text.text.base.toNat ≤ demo32Text.pc.toNat ∧
    decode demo32Text.mode (bytesAtPc demo32Text) = .instr (.porMm mmReg) := by decide +kernel
theorem witness_StepStopsAsDecoded :
    (let s := withText demo [0xF0#8, 0x0F#8, 0xEB#8, 0x00#8];
      s.text.base.toNat ≤ s.pc.toNat ∧ decode s.mode (bytesAtPc s) = .ud) ∧
    (let s := withText demo [0x0F#8, 0xEB#8];
      s.text.base.toNat ≤ s.pc.toNat ∧ s.pc.toNat < s.text.base.toNat + s.text.bytes.length ∧
        decode s.mode (bytesAtPc s) = .refused .truncated) ∧
    (let s := (withText demo [0x0F#8, 0xEB#8, 0xC1#8]).setPc 0x1003#64;
      s.pc.toNat = s.text.base.toNat + s.text.bytes.length) ∧
    (let s := (withText demo [0x0F#8, 0xEB#8, 0xC1#8]).setPc 0xFFF#64;
      s.pc.toNat < s.text.base.toNat) ∧
    (let s := (withText demo [0x0F#8, 0xEB#8, 0xC1#8]).setPc 0x1004#64;
      s.text.base.toNat + s.text.bytes.length < s.pc.toNat) := by decide +kernel
theorem witness_RunEnded : RunEnded ((withText demo [0x0F#8, 0xEB#8, 0xC1#8]).setPc 0x1003#64) := by
  unfold RunEnded; decide +kernel
/-- `demo32Text` takes a step. -/
theorem demo32Text_steps :
    step demo32Text = .next (((demo32Text.setMm 0#3 0#64).mmxToX87 0#3).advance 3) :=
  next_of_readNext (by decide +kernel)
theorem witness_StepKeepsInv :
    Machine.Inv demo32Text ∧ step demo32Text = .next (((demo32Text.setMm 0#3 0#64).mmxToX87 0#3).advance 3) :=
  ⟨by unfold Machine.Inv; decide +kernel, demo32Text_steps⟩
theorem witness_StepStaysInText :
    WithinText demo32Text ∧ step demo32Text = .next (((demo32Text.setMm 0#3 0#64).mmxToX87 0#3).advance 3) :=
  ⟨by unfold WithinText; decide +kernel, demo32Text_steps⟩
theorem witness_StepKeepsParameters :
    step demo32Text = .next (((demo32Text.setMm 0#3 0#64).mmxToX87 0#3).advance 3) := demo32Text_steps
/-- A form that completes; flags that differ from the state's in every bit but AC; each way to have no alignment check. -/
theorem witness_FlagsNeitherReadNorWritten :
    exec (.porMm mmReg) demo = .next (((demo.setMm 0#3 0#64).mmxToX87 0#3).advance 3) ∧
    (~~~demo.rflags ^^^ 0x40000#64).getLsbD 18 = demo.rflags.getLsbD 18 ∧
    demo.env.cr0AM = false ∧ demo.env.cpl ≠ 3 ∧ (lastOperand (.porMm mmReg)).isMem = false :=
  ⟨next_of_readNext (by decide +kernel), by decide +kernel, rfl, by decide, rfl⟩
theorem witness_EveryRunStops : WithinText demo32Text := by unfold WithinText; decide +kernel
theorem witness_RunLeavesReadOnlyState :
    Host.Core.run Sys2Proof.core 1 demo32Text
      = .next (((demo32Text.setMm 0#3 0#64).mmxToX87 0#3).advance 3) := by
  show (match step demo32Text with
    | .next s' => Host.Core.run Sys2Proof.core 0 s'
    | .fault r => .fault r
    | .refused r => .refused r) = _
  rw [demo32Text_steps]; rfl
theorem witness_Step32KeepsHighVectors :
    demo32Text.mode = .m32 ∧ step demo32Text = .next (((demo32Text.setMm 0#3 0#64).mmxToX87 0#3).advance 3) ∧
    8 ≤ (8#5).toNat := ⟨rfl, demo32Text_steps, by decide⟩
/-- Two states that differ in ZMM[8], in ZMM[31], in x[8] and in the high half of x[0]. -/
theorem witness_Step32IgnoresHighRegisters :
    SameIn32 demo32Text
      (withGpr (withGpr ((demo32Text.setZmm 8#5 1#512).setZmm 31#5 2#512) 8 3#64) 0 0x100002000#64) := by
  unfold SameIn32 SameParams; decide +kernel
theorem witness_PcAdvancesOrStays :
    step demo32Text = .next (((demo32Text.setMm 0#3 0#64).mmxToX87 0#3).advance 3) ∧
    step (withText State.reset [0x0F#8, 0xEB#8, 0x00#8]) = .fault (.pageFault 0x1000#64 0#32 0#64) :=
  ⟨demo32Text_steps, fault_of_faultOf (by decide +kernel)⟩

theorem witness_PorMmRegisterForm : MmxEnabled demo ∧ mmReg.rm = .reg 1#3 := by
  unfold MmxEnabled; decide +kernel
theorem witness_PorMmMemoryForm :
    MmxEnabled demo ∧ mmMem.rm.isMem = true ∧ OperandReads (.porMm mmMem) demo (BitVec.ofNat 8) := by
  unfold MmxEnabled OperandReads OperandInSegment; decide +kernel
theorem witness_PorMmX87SideEffects :
    exec (.porMm mmReg) demo = .next (((demo.setMm 0#3 0#64).mmxToX87 0#3).advance 3) ∧ 1#3 ≠ mmReg.reg :=
  ⟨next_of_readNext (by decide +kernel), by decide⟩
theorem witness_PorXmmRegisterForm : SseEnabled demo ∧ xmmReg.rm = .reg 1#3 := by
  unfold SseEnabled; decide +kernel
theorem witness_PorXmmMemoryForm :
    SseEnabled demo ∧ xmmMem.rm.isMem = true ∧ OperandReads (.porXmm xmmMem) demo (BitVec.ofNat 8) := by
  unfold SseEnabled OperandReads OperandInSegment; decide +kernel
theorem witness_VporRegisterForms :
    VexEnabled demo ∧ demo.env.hasAVX = true ∧ demo.env.hasAVX2 = true ∧ vexReg.rm = .reg 3#3 := by
  unfold VexEnabled; decide +kernel
theorem witness_VporMemoryForms :
    VexEnabled demo ∧ demo.env.hasAVX = true ∧ demo.env.hasAVX2 = true ∧ vexMem.rm.isMem = true ∧
    OperandReads (.vporXmm vexMem) demo (BitVec.ofNat 8) ∧
    OperandReads (.vporYmm vexMem) demo (BitVec.ofNat 8) := by
  unfold VexEnabled OperandReads OperandInSegment; decide +kernel
/-- For the three lengths; without a writemask, with merging-masking and with zeroing-masking. -/
theorem witness_EvexRegisterForms :
    EvexEnabled 128 demo ∧ EvexEnabled 256 demo ∧ EvexEnabled 512 demo ∧
    ∀ e ∈ [evexReg, evexRegMerge, evexRegZero], e.zeroNoMask = false ∧ e.bcast = false ∧ e.rm = .reg 3#3 := by
  unfold EvexEnabled VexEnabled; decide +kernel
theorem witness_EvexMemoryForms :
    EvexEnabled 128 demo ∧ EvexEnabled 256 demo ∧ EvexEnabled 512 demo ∧
    evexMem.zeroNoMask = false ∧ evexMem.bcast = false ∧ evexMem.rm.isMem = true ∧
    ∀ mk ∈ [Instr.vpordXmm, .vpordYmm, .vpordZmm, .vporqXmm, .vporqYmm, .vporqZmm],
      OperandReads (mk evexMem) demo (BitVec.ofNat 8) := by
  unfold EvexEnabled VexEnabled OperandReads OperandInSegment; decide +kernel
theorem witness_EvexBroadcastForms :
    EvexEnabled 128 demo ∧ EvexEnabled 256 demo ∧ EvexEnabled 512 demo ∧
    evexBcast.zeroNoMask = false ∧ evexBcast.bcast = true ∧ evexBcast.rm.isMem = true ∧
    ∀ mk ∈ [Instr.vpordXmm, .vpordYmm, .vpordZmm, .vporqXmm, .vporqYmm, .vporqZmm],
      OperandReads (mk evexBcast) demo (BitVec.ofNat 8) := by
  unfold EvexEnabled VexEnabled OperandReads OperandInSegment; decide +kernel
theorem witness_VpordAndVporqAgree : evexReg.aaa = 0#3 ∧ evexReg.bcast = false := by decide
/-- K[7] differs in its bits from 16 on only; and with aaa = 000 there is no condition. -/
theorem witness_HighMaskBitsAreIgnored :
    (evexRegMerge.aaa ≠ 0#3 → ∀ j, j < 16 →
      ((withMask demo 7 0xFFFFFFFFFFFF0000#64).opmask evexRegMerge.aaa).getLsbD j
        = (demo.opmask evexRegMerge.aaa).getLsbD j) ∧
    evexReg.aaa = 0#3 := by decide +kernel
theorem witness_MmxIgnoresRexBits : mmReg.rm = .reg 1#3 := rfl
theorem witness_RegisterFormsIgnorePrivilege : ∀ i ∈ registerForms, (lastOperand i).isMem = false := by
  decide +kernel

theorem witness_FeatureFlagAbsentIsUd :
    featureFlags { launchEnv with hasMMX := false } (.porMm mmReg) = false ∧
    featureFlags { launchEnv with hasAVX512VL := false } (.vpordXmm evexReg) = false ∧
    featureFlags { launchEnv with hasAVX512F := false } (.vporqZmm evexReg) = false := by decide
/-- Each #UD condition, then TS alone, then the pending x87 exception alone. -/
theorem witness_PorMmControlTraps :
    (let v := { launchEnv with cr0EM := true, cr0TS := true };
      v.cr0EM = true) ∧
    (let v := { launchEnv with hasMMX := false };
      v.hasMMX = false) ∧
    (let v := { launchEnv with cr0TS := true, x87ES := true };
      v.cr0EM = false ∧ v.hasMMX = true ∧ v.cr0TS = true) ∧
    (let v := { launchEnv with x87ES := true };
      v.cr0EM = false ∧ v.hasMMX = true ∧ v.cr0TS = false ∧ v.x87ES = true) := by decide
theorem witness_PorXmmControlTraps :
    (let v := { launchEnv with cr4OSFXSR := false };
      v.cr4OSFXSR = false) ∧
    (let v := { launchEnv with hasSSE2 := false };
      v.hasSSE2 = false) ∧
    (let v := { launchEnv with cr0TS := true };
      v.cr0EM = false ∧ v.cr4OSFXSR = true ∧ v.hasSSE2 = true ∧ v.cr0TS = true) := by decide
theorem witness_VporControlTraps :
    (let v := { launchEnv with xcr0 := 0xE3#8 };
      v.cr4OSXSAVE = true ∧ v.xcr0.getLsbD 2 = false) ∧
    (let v := { launchEnv with hasAVX := false, hasAVX2 := false };
      v.hasAVX = false ∧ v.hasAVX2 = false) ∧
    (let v := { launchEnv with cr0TS := true };
      v.cr4OSXSAVE = true ∧ v.xcr0.getLsbD 1 = true ∧ v.xcr0.getLsbD 2 = true ∧ v.hasAVX = true ∧
        v.hasAVX2 = true ∧ v.cr0TS = true) := by decide
theorem witness_EvexControlTraps :
    (let v := { launchEnv with xcr0 := 0x67#8 };
      ∃ b ∈ [1, 2, 5, 6, 7], v.xcr0.getLsbD b = false) ∧
    (let v := { launchEnv with hasAVX512VL := false };
      128 ≠ 512 ∧ v.hasAVX512VL = false) ∧
    (let e := { evexReg with z := true };
      e.z = true ∧ e.aaa = 0#3) ∧
    (let v := { launchEnv with cr0TS := true };
      v.cr4OSXSAVE = true ∧ (∀ b ∈ [1, 2, 5, 6, 7], v.xcr0.getLsbD b = true) ∧ v.hasAVX512F = true ∧
        v.hasAVX512VL = true ∧ (evexRegZero.z = false ∨ evexRegZero.aaa ≠ 0#3) ∧ v.cr0TS = true) := by
  decide +kernel

/-- The last byte of each operand at the first non-canonical address; bit 47 differs from bit 63. -/
theorem witness_NonCanonicalOperandTraps :
    ∀ i ∈ memoryForms,
      (let s := withGpr demo 0 (0x0000800000000001#64 - BitVec.ofNat 64 (operandBytes i));
        Enabled i s ∧ (lastOperand i).isMem = true ∧ s.mode = .m64 ∧ operandBytes i - 1 < operandBytes i ∧
          linearBits s.linearWidth - 1 ≤ 47 ∧
          (operandLA i s + BitVec.ofNat 64 (operandBytes i - 1)).getLsbD 47
            ≠ (operandLA i s + BitVec.ofNat 64 (operandBytes i - 1)).getLsbD 63) := by
  intro i h
  refine ⟨enabled_withGpr (memoryForms_enabled i h) _ _, ?_⟩
  revert i h
  decide +kernel
/-- Each operand at 0x2000 has canonical addresses alone, and so passes. -/
theorem witness_NonCanonicalOperandTraps_passes :
    ∀ i ∈ memoryForms, demo.mode = .m64 ∧ OperandInSegment i demo ∧
      ∀ k, k < operandBytes i → ∀ j, j < 63 → linearBits demo.linearWidth - 1 ≤ j →
        (operandLA i demo + BitVec.ofNat 64 k).getLsbD j
          = (operandLA i demo + BitVec.ofNat 64 k).getLsbD 63 := by
  unfold OperandInSegment; decide +kernel
/-- Row 1 at 0x2000 with limit 0x2006: its last byte, offset 0x2007, is past it; and a segment that cannot be read. -/
theorem witness_SegmentViolationTraps :
    (Enabled (.porMm mmAbs) demoLimit ∧ (lastOperand (.porMm mmAbs)).isMem = true ∧ demoLimit.mode = .m32 ∧
      (demoLimit.segs.get (operandSegment (.porMm mmAbs) demoLimit)).limit = some 0x2006#32 ∧
      7 < operandBytes (.porMm mmAbs) ∧ (0x2006#32).toNat < (operandEA (.porMm mmAbs) demoLimit).toNat + 7) ∧
    (let s := { demo32 with segs := { demo32.segs with ds := ⟨0#64, none, false⟩ } };
      (s.segs.get (operandSegment (.porMm mmAbs) s)).readable = false) := by
  simp only [Enabled, MmxEnabled]
  decide +kernel
/-- Row 1 at 0x2000 with limit 0x2007, its last byte at the limit; and with no limit. -/
theorem witness_SegmentViolationTraps_passes :
    (let s := { demo32 with segs := { demo32.segs with ds := ⟨0#64, some 0x2007#32, true⟩ } };
      s.mode = .m32 ∧ OperandInSegment (.porMm mmAbs) s ∧
        (s.segs.get (operandSegment (.porMm mmAbs) s)).readable = true ∧
        (s.segs.get (operandSegment (.porMm mmAbs) s)).limit = some 0x2007#32 ∧
        ∀ k, k < operandBytes (.porMm mmAbs) → (operandEA (.porMm mmAbs) s).toNat + k ≤ (0x2007#32).toNat) ∧
    (demo32.segs.get (operandSegment (.porMm mmAbs) demo32)).limit = none := by
  unfold OperandInSegment; decide +kernel
theorem witness_PorXmmMisalignedTraps :
    (let s := withGpr demo 0 0x2008#64;
      SseEnabled s ∧ xmmMem.rm.isMem = true ∧ OperandInSegment (.porXmm xmmMem) s ∧
        (operandLA (.porXmm xmmMem) s).toNat % 16 ≠ 0) := by
  unfold SseEnabled OperandInSegment; decide +kernel
/-- Where every byte translates or lies no lower, no byte that fails lies lower. -/
theorem lowest_of_all {s : State} {la a : Addr} {n : Nat}
    (h : ∀ j, j < n → (s.translate (s.byteAddr la j)).toBool = true ∨ a.toNat ≤ (s.byteAddr la j).toNat) :
    ∀ j, j < n → (∃ d, s.translate (s.byteAddr la j) = .error d) → a.toNat ≤ (s.byteAddr la j).toNat := by
  rintro j hj ⟨d, hd⟩
  simpa [hd, Except.toBool] using h j hj
/-- Row 4 at 0x2021: its last byte alone is not mapped. Row 1 at 2^64 - 4 with nothing mapped: byte 4, at address 0, is the
lowest. -/
theorem witness_UnmappedOperandTraps :
    (let s := withGpr demo 0 0x2021#64;
      let i := Instr.vporYmm vexMem;
      Enabled i s ∧ (lastOperand i).isMem = true ∧ OperandInSegment i s ∧ alignRule i ≠ .sse ∧
        31 < operandBytes i ∧ s.translate (s.byteAddr (operandLA i s) 31) = .error 0#32 ∧
        ∀ j, j < operandBytes i → (∃ d, s.translate (s.byteAddr (operandLA i s) j) = .error d) →
          (s.byteAddr (operandLA i s) 31).toNat ≤ (s.byteAddr (operandLA i s) j).toNat) ∧
    (let s := withGpr State.reset 0 0xFFFFFFFFFFFFFFFC#64;
      let i := Instr.porMm mmMem;
      Enabled i s ∧ (lastOperand i).isMem = true ∧ OperandInSegment i s ∧ alignRule i ≠ .sse ∧
        4 < operandBytes i ∧ s.translate (s.byteAddr (operandLA i s) 4) = .error 0#32 ∧
        ∀ j, j < operandBytes i → (∃ d, s.translate (s.byteAddr (operandLA i s) j) = .error d) →
          (s.byteAddr (operandLA i s) 4).toNat ≤ (s.byteAddr (operandLA i s) j).toNat) := by
  simp only [Enabled, MmxEnabled, VexEnabled, OperandInSegment]
  exact ⟨⟨by decide +kernel, by decide +kernel, by decide +kernel, by decide +kernel, by decide +kernel,
      by decide +kernel, lowest_of_all (by decide +kernel)⟩,
    ⟨by decide +kernel, by decide +kernel, by decide +kernel, by decide +kernel, by decide +kernel,
      by decide +kernel, lowest_of_all (by decide +kernel)⟩⟩
/-- R156 (3), D10: an operand that wraps, nothing of it mapped: CR2 is 0, the lowest address; with address 0 to 3 mapped it
is the first byte. -/
theorem test_wrapping_page_fault :
    (let s := withText (withGpr State.reset 0 0xFFFFFFFFFFFFFFFC#64) [0x0F#8, 0xEB#8, 0x00#8];
      faultOf (step s) = some (.pageFault 0x1000#64 0#32 0#64) ∧
        faultOf (step (withBytes s 0 [1#8, 2#8, 3#8, 4#8]))
          = some (.pageFault 0x1000#64 0#32 0xFFFFFFFFFFFFFFFC#64)) := by decide +kernel
/-- Row 1 and row 10 at 0x2001 with alignment checking enabled. -/
theorem witness_AlignmentCheckStops :
    (Enabled (.porMm mmMem) demoAligned ∧ (lastOperand (.porMm mmMem)).isMem = true ∧
      OperandInSegment (.porMm mmMem) demoAligned ∧
      (∀ k, k < operandBytes (.porMm mmMem) →
        demoAligned.translate (demoAligned.byteAddr (operandLA (.porMm mmMem) demoAligned) k)
          = .ok (BitVec.ofNat 8 (k + 1))) ∧
      demoAligned.env.cr0AM = true ∧ demoAligned.rflags.getLsbD 18 = true ∧ demoAligned.env.cpl = 3 ∧
      alignRule (.porMm mmMem) = .mmx ∧ (operandLA (.porMm mmMem) demoAligned).toNat % 8 ≠ 0) ∧
    (Enabled (.vporqXmm evexBcast) demoAligned ∧ OperandInSegment (.vporqXmm evexBcast) demoAligned ∧
      (∀ k, k < operandBytes (.vporqXmm evexBcast) →
        demoAligned.translate (demoAligned.byteAddr (operandLA (.vporqXmm evexBcast) demoAligned) k)
          = .ok (BitVec.ofNat 8 (k + 1))) ∧
      alignRule (.vporqXmm evexBcast) = .vector ∧
      (operandLA (.vporqXmm evexBcast) demoAligned).toNat % operandBytes (.vporqXmm evexBcast) ≠ 0) := by
  simp only [Enabled, MmxEnabled, EvexEnabled, VexEnabled, OperandInSegment]
  decide +kernel
/-- A fault of each of the three groups: vector 6, vector 13, vector 14 with CPL 3. -/
theorem witness_FaultValuesRecorded :
    step (withText demo [0xF0#8, 0x0F#8, 0xEB#8, 0x00#8]) = .fault (.invalidOpcode 0x1000#64) ∧
    step (withText (withGpr demo 0 0x2008#64) [0x66#8, 0x0F#8, 0xEB#8, 0x00#8])
      = .fault (.generalProtection 0x1000#64 0#32) ∧
    (let s := withText (withGpr demo 0 0x2039#64) [0x0F#8, 0xEB#8, 0x00#8];
      step { s with env := { launchEnv with cpl := 3 } } = .fault (.pageFault 0x1000#64 4#32 0x2040#64)) :=
  ⟨fault_of_faultOf (by decide +kernel), fault_of_faultOf (by decide +kernel), fault_of_faultOf (by decide +kernel)⟩
/-- The clauses of `pageFaultCode`: a reserved bit, a page that is not present, a supervisor page at CPL 3. -/
theorem witness_pageFaultCode :
    (let s := { demo with pages := [⟨0x2000, 4096, .reservedBit⟩] };
      s.pageOf 0x2000#64 = some ⟨0x2000, 4096, .reservedBit⟩ ∧ s.translate 0x2000#64 = .error 9#32) ∧
    (let s := { demo with pages := [⟨0x2000, 4096, .notPresent⟩] };
      s.pageOf 0x2FFF#64 = some ⟨0x2000, 4096, .notPresent⟩ ∧ s.translate 0x2FFF#64 = .error 0#32) ∧
    (let s := { demoAligned with pages := [⟨0x2000, 4096, .present 0x2000 false⟩] };
      s.pageOf 0x2001#64 = some ⟨0x2000, 4096, .present 0x2000 false⟩ ∧ s.env.cpl = 3 ∧
        s.translate 0x2001#64 = .error 5#32) := by decide +kernel
theorem witness_OnlyRow1RaisesMfOrAc :
    exec (.porMm mmReg) { demo with env := { launchEnv with x87ES := true } }
      = .fault (.x87Pending 0x1000#64) ∧
    exec (.porMm mmMem) demoAligned = .fault (.alignmentCheck 0x1000#64 0#32) :=
  ⟨fault_of_faultOf (by decide +kernel), fault_of_faultOf (by decide +kernel)⟩
theorem witness_RegisterFormsRaiseNoMemoryFault :
    (lastOperand (.vporqZmm evexRegZero)).isMem = false ∧
    exec (.vporqZmm evexRegZero) { demo with env := { launchEnv with cr0TS := true } }
      = .fault (.deviceNotAvailable 0x1000#64) :=
  ⟨by decide, fault_of_faultOf (by decide +kernel)⟩

/-- Both modes; no override, an override in M32, one by FS and one by ES in M64. -/
theorem witness_SegmentOfTheOperand :
    demo.mode = .m64 ∧ demo32.mode = .m32 ∧
    (∀ ps ∈ [[LegacyPrefix.seg .es], [.addrSize, .seg .es]], prefixGroupsDistinct ps = true ∧
      LegacyPrefix.seg .es ∈ ps ∧ segOverride ps = some .es) ∧
    ((∀ g, LegacyPrefix.seg g ∉ [LegacyPrefix.addrSize]) ∧ segOverride [.addrSize] = none) ∧
    segOverride [.seg .fs] = some .fs ∧ segOverride [.addrSize, .seg .gs] = some .gs ∧
    Seg.es ≠ .fs ∧ Seg.es ≠ .gs :=
  ⟨rfl, rfl, by decide, ⟨fun g => by cases g <;> decide, rfl⟩, rfl, rfl, by decide, by decide⟩
/-- The default segment through SIB: SS for a base ESP, DS for R12 and for no base. -/
theorem test_default_segment_sib :
    operandSegment (.porMm ⟨[], none, 0#3, .sib 0#2 4#3 4#3 .none⟩) demo = .ss ∧
    operandSegment (.porMm ⟨[], some ⟨false, false, false, true⟩, 0#3, .sib 0#2 4#3 4#3 .none⟩) demo = .ds ∧
    operandSegment (.porMm ⟨[], none, 0#3, .sibNoBase 0#2 4#3 0#32⟩) demo = .ds := by decide
/-- An address in no range, mapped and not; the clauses of a range at its first and last address; the first range wins. -/
theorem witness_TranslateReadsMemory :
    (demo.pages = [] ∧ Memory.read demo.mem 0x203F = some 0x3F#8 ∧ Memory.read demo.mem 0x2040 = none) ∧
    (inPage ⟨0x3000, 4096, .notPresent⟩ 0x3000#64 ∧ inPage ⟨0x3000, 4096, .notPresent⟩ 0x3FFF#64 ∧
      ¬ inPage ⟨0x3000, 4096, .notPresent⟩ 0x2FFF#64 ∧ ¬ inPage ⟨0x3000, 4096, .notPresent⟩ 0x4000#64) ∧
    (let s := { demo with pages := [⟨0x3000, 1, .reservedBit⟩, ⟨0x3000, 4096, .present 0x2000 true⟩] };
      ¬ inPage ⟨0x3000, 1, .reservedBit⟩ 0x3001#64 ∧ inPage ⟨0x3000, 4096, .present 0x2000 true⟩ 0x3001#64 ∧
        s.translate 0x3000#64 = .error 9#32 ∧ s.translate 0x3001#64 = .ok 1#8 ∧
        s.translate 0x3040#64 = .error 0#32) ∧
    (let s := { demoAligned with pages := [⟨0x3000, 4096, .present 0x2000 false⟩] };
      s.env.cpl = 3 ∧ inPage ⟨0x3000, 4096, .present 0x2000 false⟩ 0x3000#64 ∧
        s.translate 0x3000#64 = .error 5#32) := by
  unfold inPage; decide +kernel
/-- Every memory form at 0x2000 reads the bytes of memory from there on. -/
theorem witness_UntranslatedOperandIsMemory :
    demo.pages = [] ∧ ∀ i ∈ memoryForms, ∀ k, k < operandBytes i →
      Memory.read demo.mem (((operandLA i demo).toNat + k) % addrSpace demo.mode) = some (BitVec.ofNat 8 k) := by
  decide +kernel
/-- A store of four bytes: its last byte, and the addresses just outside it. -/
theorem witness_StoreIsLittleEndian :
    (3 < 4 ∧ 0x2003 = (0x2000#64).toNat + 3) ∧ 0x1FFF < (0x2000#64).toNat ∧ (0x2000#64).toNat + 4 ≤ 0x2004 := by
  decide

end Sys2Proof.Tests
end

section
/-! The read after a store: one byte, a run of bytes, and `MemWrite`, whose bytes are little-endian (R8, R51). -/

namespace Sys2Proof.Machine

/-! ### One byte -/

theorem Memory.read_cons (m : Memory) (i c : Nat) (b : Byte) :
    Memory.read ((i, b) :: m) c = if c = i then some b else Memory.read m c := by
  simp [Memory.read, eq_comm]

/-- Whether or not the list is canonical: the write puts the byte in front of every later entry for its address. -/
theorem Memory.read_write (m : Memory) (a c : Nat) (v : Byte) :
    Memory.read (Memory.write m a v) c = if c = a then some v else Memory.read m c := by
  induction m with
  | nil => rw [Memory.write, Memory.read_cons]
  | cons d m ih =>
    obtain ⟨i, b⟩ := d
    rw [Memory.write]
    split
    case isTrue => rw [Memory.read_cons]
    case isFalse =>
      split
      case isTrue heq =>
        subst heq
        by_cases hc : c = a <;> simp [Memory.read_cons, hc]
      case isFalse hne =>
        by_cases hc : c = i
        · have hca : c ≠ a := by omega
          rw [Memory.read_cons, if_pos hc, if_neg hca, Memory.read_cons, if_pos hc]
        · rw [Memory.read_cons, if_neg hc, ih, Memory.read_cons, if_neg hc]

/-! ### A run of bytes -/

theorem Memory.read_writeBytes_outside (m : Memory) {i c : Nat} (bs : List Byte)
    (h : c < i ∨ i + bs.length ≤ c) : Memory.read (Memory.writeBytes m i bs) c = Memory.read m c := by
  induction bs generalizing m i with
  | nil => rfl
  | cons b bs ih =>
    rw [List.length_cons] at h
    have hc : c ≠ i := by omega
    calc Memory.read (Memory.writeBytes m i (b :: bs)) c
      _ = Memory.read (Memory.write m i b) c := ih _ (by omega)
      _ = Memory.read m c := by rw [Memory.read_write, if_neg hc]

/-- No later byte of the run is written over an earlier one. -/
theorem Memory.read_writeBytes_add (m : Memory) (i : Nat) (bs : List Byte) {k : Nat} (hk : k < bs.length) :
    Memory.read (Memory.writeBytes m i bs) (i + k) = some bs[k] := by
  induction bs generalizing m i k with
  | nil => simp at hk
  | cons b bs ih =>
    cases k with
    | zero =>
      calc Memory.read (Memory.writeBytes (Memory.write m i b) (i + 1) bs) i
        _ = Memory.read (Memory.write m i b) i := Memory.read_writeBytes_outside _ bs (by omega)
        _ = some b := by rw [Memory.read_write, if_pos rfl]
    | succ k =>
      have hk' : k < bs.length := by simpa using hk
      rw [← Nat.add_assoc, Nat.add_right_comm]
      exact ih (Memory.write m i b) (i + 1) hk'

/-! ### The bytes of a value -/

@[simp] theorem leBytes_length {w : Nat} (v : BitVec w) (n : Nat) : (leBytes v n).length = n := by
  simp [leBytes]

@[simp] theorem leBytes_getElem {w : Nat} (v : BitVec w) (n : Nat) {k : Nat} (hk : k < (leBytes v n).length) :
    (leBytes v n)[k] = v.extractLsb' (8 * k) 8 := by
  simp [leBytes]

/-- Settles O57: the laws of a run of bytes, for the little-endian bytes of the stored value. -/
theorem storeIsLittleEndian : Obligations.StoreIsLittleEndian := by
  intro s w n v a c
  rw [State.memWrite_mem]
  constructor
  · rintro k hk rfl
    have hlen : k < (leBytes v n).length := by simpa using hk
    rw [Memory.read_writeBytes_add _ _ _ hlen, leBytes_getElem]
  · intro hc
    exact Memory.read_writeBytes_outside _ _ (by simpa using hc)

end Sys2Proof.Machine
end

section
/-! What the decoder answers with is well-formed (R91, R92): one lemma per stage of the decode procedure. -/

namespace Sys2Proof

theorem disp_ne_none_of_readDisp {mod : BitVec 2} {bs rest : List Byte} {d : Disp}
    (h : readDisp mod bs = some (d, rest)) (hmod : mod ≠ 0#2) : d ≠ .none := by
  simp only [readDisp, if_neg hmod] at h
  split at h
  · split at h
    · cases h
      nofun
    · cases h
  · split at h
    · cases h
      nofun
    · cases h

theorem readSib_wf {mod : BitVec 2} {bs rest : List Byte} {rm : Rm} (h : readSib mod bs = some (rm, rest)) :
    rm.wf = true := by
  cases bs with
  | nil => cases h
  | cons b bs =>
    simp only [readSib] at h
    split at h
    · obtain ⟨_, _, heq⟩ := Option.map_eq_some_iff.1 h
      cases heq
      rfl
    next hbase =>
      obtain ⟨⟨d, t⟩, hd, heq⟩ := Option.map_eq_some_iff.1 h
      cases heq
      have := disp_ne_none_of_readDisp hd
      simp only [Rm.wf, Bool.or_eq_true, bne_iff_ne]
      tauto

theorem readModRM_wf {bs rest : List Byte} {reg : BitVec 3} {rm : Rm} (h : readModRM bs = some (reg, rm, rest)) :
    rm.wf = true := by
  cases bs with
  | nil => cases h
  | cons b bs =>
    simp only [readModRM] at h
    split at h
    · cases h
      rfl
    split at h
    · obtain ⟨_, hsib, heq⟩ := Option.map_eq_some_iff.1 h
      cases heq
      exact readSib_wf hsib
    next hrm =>
      split at h
      · obtain ⟨_, _, heq⟩ := Option.map_eq_some_iff.1 h
        cases heq
        rfl
      next hbase =>
        obtain ⟨⟨d, t⟩, hd, heq⟩ := Option.map_eq_some_iff.1 h
        cases heq
        have := disp_ne_none_of_readDisp hd
        simp only [Rm.wf, Bool.and_eq_true, Bool.or_eq_true, bne_iff_ne]
        tauto

theorem finishForm_instr {m : Mode} {ps : List LegacyPrefix} {bs : List Byte} {build : BitVec 3 → Rm → Decoded}
    {i : Instr} (h : finishForm m ps bs build = .instr i) :
    addr16Ok m ps = true ∧ ∃ reg rm, rm.wf = true ∧ build reg rm = .instr i := by
  unfold finishForm at h
  split at h
  next haddr =>
    split at h
    · cases h
    next reg rm _ hread => exact ⟨haddr, reg, rm, readModRM_wf hread, h⟩
  · cases h

theorem all_okBeforeLegacy {ps : List LegacyPrefix} (hlock : ps.contains .lock = false)
    (hrep : (ps.contains .repne || ps.contains .rep) = false) : ps.all LegacyPrefix.okBeforeLegacy = true := by
  simp only [Bool.or_eq_false_iff, List.contains_eq_mem, decide_eq_false_iff_not] at hlock hrep
  obtain ⟨hrepne, hrep⟩ := hrep
  refine List.all_eq_true.2 fun p hp => ?_
  cases p with
  | repne => exact absurd hp hrepne
  | rep => exact absurd hp hrep
  | lock => exact absurd hp hlock
  | seg _ | addrSize | opSize => rfl

section
variable {m : Mode} {ps : List LegacyPrefix} {i : Instr}

theorem decodeLegacy_wf {rex : Option Rex} {bs : List Byte} (hps : prefixGroupsDistinct ps = true)
    (hrex : rexOk m rex = true) (h : decodeLegacy m ps rex bs = .instr i) : i.wf m = true := by
  cases bs with
  | nil => cases h
  | cons b bs =>
    simp only [decodeLegacy] at h
    split at h
    · cases h
    split at h
    · cases h
    next hlock =>
      split at h
      · cases h
      next hrep =>
        obtain ⟨haddr, reg, rm, hrm, hi⟩ := finishForm_instr h
        have hok := all_okBeforeLegacy (by simpa using hlock) (by simpa using hrep)
        split at hi
        next hsse => cases hi; simp [Instr.wf, Legacy.wf, hps, hok, haddr, hrex, hrm, -List.contains_eq_mem, hsse]
        next hmmx => cases hi; simp [Instr.wf, Legacy.wf, hps, hok, haddr, hrex, hrm, -List.contains_eq_mem, hmmx]

theorem decodeVexBody_wf {form : VexForm} {r l : Bool} {map : BitVec 5} {vvvv : BitVec 4} {pp : BitVec 2}
    {bs : List Byte} (hps : prefixGroupsDistinct ps = true)
    (h : decodeVexBody m ps form r map vvvv l pp bs = .instr i) : i.wf m = true := by
  unfold decodeVexBody at h
  split at h
  · cases h
  next hok =>
    split at h
    · cases h
    cases bs with
    | nil => cases h
    | cons b bs =>
      simp only at h
      split at h
      · cases h
      split at h
      · cases h
      next hregs =>
        obtain ⟨haddr, reg, rm, hrm, hi⟩ := finishForm_instr h
        simp only [illegalBeforeVex, Bool.not_eq_true', Bool.not_eq_false] at hok hregs
        have hwf : Vex.wf m ⟨ps, form, r, vvvv, reg, rm⟩ = true := by
          have : Vex.regsOk m ⟨ps, form, r, vvvv, reg, rm⟩ = true := hregs
          simp only [Vex.wf, hps, hok, haddr, this, hrm, Bool.and_self]
        split at hi <;> (cases hi; exact hwf)

theorem decodeVex2_wf {bs : List Byte} (hps : prefixGroupsDistinct ps = true)
    (h : decodeVex2 m ps bs = .instr i) : i.wf m = true := by
  unfold decodeVex2 at h
  split at h
  · split at h
    · exact decodeVexBody_wf hps h
    · cases h
  · cases h

theorem decodeVex3_wf {bs : List Byte} (hps : prefixGroupsDistinct ps = true)
    (h : decodeVex3 m ps bs = .instr i) : i.wf m = true := by
  unfold decodeVex3 at h
  split at h
  · split at h
    · split at h
      · exact decodeVexBody_wf hps h
      · cases h
    · cases h
  · cases h

theorem evexRow_wf {w : Bool} {ll : BitVec 2} {e : Evex} (h : evexRow w ll e = some i) : i.wf m = e.wf m := by
  unfold evexRow at h
  split_ifs at h <;> (cases h; rfl)

theorem finishEvex_instr {w : Bool} {ll : BitVec 2} {e : Evex} (h : finishEvex w ll e = .instr i) :
    e.bcastReg = false ∧ evexRow w ll e = some i := by
  unfold finishEvex at h
  split at h
  · cases h
  next hb =>
    split at h
    next j hrow => cases h; exact ⟨by simpa using hb, hrow⟩
    · cases h

theorem decodeEvexBody_wf {p0 p1 p2 : Byte} {bs : List Byte} (hps : prefixGroupsDistinct ps = true)
    (h : decodeEvexBody m ps p0 p1 p2 bs = .instr i) : i.wf m = true := by
  unfold decodeEvexBody at h
  simp only at h
  split at h
  · cases h
  next hok =>
    split at h
    · cases h
    split at h
    · cases h
    cases bs with
    | nil => cases h
    | cons b bs =>
      simp only at h
      split at h
      · cases h
      split at h
      · cases h
      split at h
      · cases h
      next hz =>
        split at h
        · cases h
        next hregs =>
          obtain ⟨haddr, reg, rm, hrm, hi⟩ := finishForm_instr h
          obtain ⟨hb, hrow⟩ := finishEvex_instr hi
          simp only [illegalBeforeVex, Bool.not_eq_true', Bool.not_eq_false, Bool.not_eq_true] at hok hregs hz
          rw [evexRow_wf hrow]
          simp only [Evex.wf, Bool.and_eq_true, Bool.not_eq_true']
          exact ⟨⟨⟨⟨⟨⟨hps, hok⟩, haddr⟩, hregs⟩, hz⟩, hb⟩, hrm⟩

theorem decodeEvex_wf {bs : List Byte} (hps : prefixGroupsDistinct ps = true)
    (h : decodeEvex m ps bs = .instr i) : i.wf m = true := by
  unfold decodeEvex at h
  split at h
  · split at h
    · split at h
      · exact decodeEvexBody_wf hps h
      · cases h
    · cases h
  · cases h

theorem decodeVexFamily_wf {b : Byte} {bs : List Byte} (hps : prefixGroupsDistinct ps = true)
    (h : decodeVexFamily m ps b bs = some (.instr i)) : i.wf m = true := by
  unfold decodeVexFamily at h
  split at h
  · exact decodeVex2_wf hps (Option.some.inj h)
  split at h
  · exact decodeVex3_wf hps (Option.some.inj h)
  split at h
  · exact decodeEvex_wf hps (Option.some.inj h)
  · cases h

theorem decodeAfterRex_instr {rex : Rex} {bs : List Byte} (h : decodeAfterRex m ps rex bs = .instr i) :
    ∃ rest, decodeLegacy m ps (some rex) rest = .instr i := by
  unfold decodeAfterRex at h
  split at h
  · cases h
  next b0 rest =>
    split at h
    · exact ⟨rest, h⟩
    · split at h <;> cases h

/-- The half of the decoder's round trip that a step needs: every instruction a step runs is well-formed in its mode. -/
theorem decode_wf {bs : List Byte} (h : decode m bs = .instr i) : i.wf m = true := by
  simp only [decode] at h
  split at h
  next hps =>
    split at h
    · cases h
    next b0 rest _ =>
      split at h
      next hrex =>
        obtain ⟨rest', hlegacy⟩ := decodeAfterRex_instr h
        exact decodeLegacy_wf hps (by rw [hrex.1]; rfl) hlegacy
      · split at h
        · exact decodeLegacy_wf hps (by cases m <;> rfl) h
        · cases hvex : decodeVexFamily m (takePrefixes bs).1 b0 rest with
          | none => rw [hvex] at h; cases h
          | some d =>
            rw [hvex] at h
            exact decodeVexFamily_wf hps (hvex.trans (congrArg some h))
  · cases h

end

end Sys2Proof
end

section
/-! What an instruction reads and writes, said once for all ten forms: the vector registers it names, what its memory operand
depends on, and that states which agree on these have matching outcomes (R114, R157). -/

namespace Sys2Proof

/-- The vector registers that row 2 names: DEST, and the source where it is a register (R77). -/
def Legacy.vecRegs (e : Legacy) : List (BitVec 5) :=
  e.xmmDest :: (e.rm.asReg.map (vecNum false (rexB e.rex))).toList

/-- The vector registers that a VEX form names: DEST, SRC1, and the last source where it is a register (R77). -/
def Vex.vecRegs (e : Vex) : List (BitVec 5) :=
  e.dest :: e.src1 :: (e.rm.asReg.map (vecNum false e.form.b)).toList

/-- The vector registers that an EVEX form names: DEST, SRC1, and the last source where it is a register (R87). -/
def Evex.vecRegs (e : Evex) : List (BitVec 5) :=
  e.dest :: e.src1 :: (e.rm.asReg.map (vecNum e.x e.b)).toList

namespace Machine

/-- The vector registers that an instruction names; row 1 has MMX registers only (R77, R87). -/
def vecRegs : Instr → List (BitVec 5)
  | .porMm _ => []
  | .porXmm e => e.vecRegs
  | .vporXmm e => e.vecRegs
  | .vporYmm e => e.vecRegs
  | .vpordXmm e => e.vecRegs
  | .vpordYmm e => e.vecRegs
  | .vpordZmm e => e.vecRegs
  | .vporqXmm e => e.vecRegs
  | .vporqYmm e => e.vecRegs
  | .vporqZmm e => e.vecRegs

/-! ### One instruction -/

/-- `exec_next`, with the vector register that is written among those the instruction names. -/
theorem exec_next_vecRegs {i : Instr} {s t : State} (h : exec i s = .next t) :
    (∃ e v, i = .porMm e ∧ t = ((s.setMm e.mmDest v).mmxToX87 e.mmDest).advance i.len) ∨
    (∃ d ∈ vecRegs i, ∃ v, t = (s.setZmm d v).advance i.len) := by
  cases i with
  | porMm e =>
    obtain ⟨-, v, -, rfl⟩ := runForm_next_iff.1 (show runForm _ _ _ _ = _ from h)
    exact .inl ⟨e, _, rfl, rfl⟩
  | _ e =>
    obtain ⟨-, v, -, rfl⟩ := runForm_next_iff.1 (show runForm _ _ _ _ = _ from h)
    exact .inr ⟨_, List.mem_cons_self, _, rfl⟩

theorem operandEA_eq (i : Instr) (s : State) :
    operandEA i s = s.effAddr (addrSizeOf s.mode (Claims.prefixesOf i)) (Claims.indexExt i) (Claims.baseExt i)
      (Claims.disp8Factor i) i.len (lastOperand i) := by
  cases i <;> rfl

theorem operandSegment_eq (i : Instr) (s : State) :
    operandSegment i s = operandSeg s.mode (Claims.prefixesOf i) (Claims.baseExt i) (lastOperand i) := by
  cases i <;> rfl

section
variable {s t : State}

/-! ### What the checks and a memory read depend on -/

theorem SameParams.mode (hp : SameParams s t) : t.mode = s.mode := hp.1

theorem SameParams.env (hp : SameParams s t) : t.env = s.env := hp.2.1

theorem State.checkMmx_congr (henv : t.env = s.env) : t.checkMmx = s.checkMmx := by
  unfold State.checkMmx
  rw [henv]

theorem State.checkSse_congr (henv : t.env = s.env) : t.checkSse = s.checkSse := by
  unfold State.checkSse
  rw [henv]

theorem State.checkVex_congr (henv : t.env = s.env) (feature : Bool) : t.checkVex feature = s.checkVex feature := by
  unfold State.checkVex State.avxEnabled
  rw [henv]

theorem State.checkEvex_congr (henv : t.env = s.env) (vl : Nat) (e : Evex) : t.checkEvex vl e = s.checkEvex vl e := by
  unfold State.checkEvex State.avx512Enabled State.avxEnabled State.evexFeature
  rw [henv]

theorem State.segBase_congr (hp : SameParams s t) (g : Seg) : t.segBase g = s.segBase g := by
  obtain ⟨hmode, -, -, hsegs, -, -⟩ := hp
  simp only [State.segBase, hmode, hsegs]

theorem State.linearAddr_congr (hp : SameParams s t) (g : Seg) (ea : Addr) :
    t.linearAddr g ea = s.linearAddr g ea := by
  simp only [State.linearAddr, State.segBase_congr hp, hp.mode]

theorem State.byteAddr_congr (hp : SameParams s t) (la : Addr) (k : Nat) : t.byteAddr la k = s.byteAddr la k := by
  simp only [State.byteAddr, hp.mode]

theorem State.segmentOk_congr (hp : SameParams s t) (g : Seg) (ea la : Addr) (n : Nat) :
    t.segmentOk g ea la n = s.segmentOk g ea la n := by
  have hbyte := State.byteAddr_congr hp la
  obtain ⟨hmode, -, hwidth, hsegs, -, -⟩ := hp
  simp only [State.segmentOk, hmode, hwidth, hsegs, hbyte]

theorem State.translate_congr (hp : SameParams s t) (hm : t.mem = s.mem) (a : Addr) :
    t.translate a = s.translate a := by
  obtain ⟨-, henv, -, -, hpages, -⟩ := hp
  simp only [State.translate, State.physByte, State.pageOf, State.pfCode, henv, hpages, hm]

theorem State.readBytes_congr (hp : SameParams s t) (hm : t.mem = s.mem) (la : Addr) (k n : Nat) :
    t.readBytes la k n = s.readBytes la k n := by
  induction n generalizing k with
  | zero => rfl
  | succ n ih => simp only [State.readBytes, State.byteAddr_congr hp, State.translate_congr hp hm, ih]

/-- A memory read depends on the parameters, on memory, and on whether alignment checking is enabled. -/
theorem State.memRead_congr (hp : SameParams s t) (hm : t.mem = s.mem)
    (hac : t.alignmentCheckEnabled = s.alignmentCheckEnabled) (rule : AlignRule) (g : Seg) (ea : Addr) (n : Nat) :
    t.memRead rule g ea n = s.memRead rule g ea n := by
  simp only [State.memRead, State.linearAddr_congr hp, State.segmentOk_congr hp, State.readBytes_congr hp hm, hac]

end

/-! ### States that agree on what a form reads -/

/-- `s` and `t` agree on all that a form reads whose vector registers are `regs`, whose last operand is `rm` and whose memory
operand stands at `ea`. Flags count only through the alignment check of a memory operand (R28, R52). -/
structure SameInputs (regs : List (BitVec 5)) (rm : Rm) (ea : State → Addr) (s t : State) : Prop where
  params : SameParams s t
  mem : t.mem = s.mem
  pc : t.pc = s.pc
  mm : t.mm = s.mm
  k : t.k = s.k
  vec : ∀ r ∈ regs, t.zmmAt r = s.zmmAt r
  addr : rm.isMem = true → ea t = ea s
  align : rm.isMem = true → t.alignmentCheckEnabled = s.alignmentCheckEnabled

/-- The next states are related by `R` whatever the form writes: an MMX register with its x87 effects, or a vector register
among `regs`, and `pc`. -/
structure WritesKeep (R : State → State → Prop) (regs : List (BitVec 5)) (len : Nat) (s t : State) : Prop where
  mmx : ∀ d v, R (((s.setMm d v).mmxToX87 d).advance len) (((t.setMm d v).mmxToX87 d).advance len)
  vec : ∀ d ∈ regs, ∀ v, R ((s.setZmm d v).advance len) ((t.setZmm d v).advance len)

section
variable {s t : State} {R : State → State → Prop}

theorem takeException_congr (hpc : t.pc = s.pc) (x : Exc) : takeException x t = takeException x s := by
  cases x <;> simp only [takeException, hpc]

theorem runForm_match {α : Type} {check check' : Option Exc} {src src' : Except Stop α} {finish finish' : α → State}
    (hpc : t.pc = s.pc) (hcheck : check' = check) (hsrc : src' = src) (hnext : ∀ v, R (finish v) (finish' v)) :
    OutcomesMatch R (runForm s check src finish) (runForm t check' src' finish') := by
  subst hcheck hsrc
  cases check' with
  | some x => exact (takeException_congr hpc x).symm
  | none =>
    cases src' with
    | ok v => exact hnext v
    | error e =>
      cases e with
      | exc x => exact (takeException_congr hpc x).symm
      | refuse r => exact rfl

theorem State.mmAt_congr (hmm : t.mm = s.mm) (n : BitVec 3) : t.mmAt n = s.mmAt n := by
  simp only [State.mmAt, hmm]

section
variable {regs : List (BitVec 5)} {rm : Rm} {ea : State → Addr} (h : SameInputs regs rm ea s t)
include h

theorem SameInputs.vec_eq {r : BitVec 5} (hr : r ∈ regs) (vl : Nat) : t.vec r vl = s.vec r vl := by
  simp only [State.vec, h.vec r hr]

/-- The operand of every family: a register where ModRM names one, else a memory read. -/
theorem SameInputs.memRead_eq (hrm : rm.asReg = none) (rule : AlignRule) (g : Seg) (n : Nat) :
    t.memRead rule g (ea t) n = s.memRead rule g (ea s) n := by
  have hmem : rm.isMem = true := by rw [Rm.isMem, hrm]; rfl
  rw [h.addr hmem, State.memRead_congr h.params h.mem (h.align hmem)]

end

theorem execPorMm_match {e : Legacy} {regs : List (BitVec 5)} (h : SameInputs regs e.rm e.effAddr s t)
    (hw : WritesKeep R regs e.len s t) : OutcomesMatch R (execPorMm e s) (execPorMm e t) := by
  refine runForm_match h.pc (State.checkMmx_congr h.params.env) ?_ fun v => ?_
  · unfold Legacy.mmSource Legacy.seg
    rw [h.params.mode]
    cases hrm : e.rm.asReg with
    | some r => exact congrArg _ (State.mmAt_congr h.mm r)
    | none => simp only [h.memRead_eq hrm]
  · rw [State.mmAt_congr h.mm]
    exact hw.mmx ..

theorem execPorXmm_match {e : Legacy} (h : SameInputs e.vecRegs e.rm e.effAddr s t)
    (hw : WritesKeep R e.vecRegs e.len s t) : OutcomesMatch R (execPorXmm e s) (execPorXmm e t) := by
  have hdest : e.xmmDest ∈ e.vecRegs := List.mem_cons_self
  refine runForm_match h.pc (State.checkSse_congr h.params.env) ?_ fun v => ?_
  · unfold Legacy.xmmSource Legacy.seg
    rw [h.params.mode]
    cases hrm : e.rm.asReg with
    | some r => exact congrArg _ (h.vec_eq (by simp [Legacy.vecRegs, hrm]) _)
    | none => simp only [h.memRead_eq hrm]
  · simp only [h.vec_eq hdest, State.setXmmKeep, h.vec _ hdest]
    exact hw.vec _ hdest _

theorem vexOr_match {e : Vex} {vl : Nat} (feature : Env → Bool) (h : SameInputs e.vecRegs e.rm e.effAddr s t)
    (hw : WritesKeep R e.vecRegs e.len s t) :
    OutcomesMatch R (vexOr vl (feature s.env) e s) (vexOr vl (feature t.env) e t) := by
  rw [h.params.env]
  refine runForm_match h.pc (State.checkVex_congr h.params.env _) ?_ fun v => ?_
  · unfold Vex.source Vex.seg
    rw [h.params.mode]
    cases hrm : e.rm.asReg with
    | some r => exact congrArg _ (h.vec_eq (by simp [Vex.vecRegs, hrm]) _)
    | none => simp only [h.memRead_eq hrm]
  · rw [h.vec_eq (by simp [Vex.vecRegs])]
    exact hw.vec _ List.mem_cons_self _

theorem evexOr_match {e : Evex} {es vl : Nat} (h : SameInputs e.vecRegs e.rm (e.effAddr es vl) s t)
    (hw : WritesKeep R e.vecRegs e.len s t) : OutcomesMatch R (evexOr es vl e s) (evexOr es vl e t) := by
  refine runForm_match h.pc (State.checkEvex_congr h.params.env vl e) ?_ fun v => ?_
  · unfold Evex.source Evex.seg
    rw [h.params.mode]
    cases hrm : e.rm.asReg with
    | some r => simp only [h.vec_eq (show vecNum e.x e.b r ∈ e.vecRegs by simp [Evex.vecRegs, hrm])]
    | none => simp only [h.memRead_eq hrm]
  · have hmask : evexWrites e t = evexWrites e s := by
      funext j
      simp only [evexWrites, State.opmask, h.k]
    have hresult : evexResult es vl e t v = evexResult es vl e s v := by
      unfold evexResult
      rw [hmask, h.vec_eq (by simp [Evex.vecRegs]), h.vec_eq (by simp [Evex.vecRegs])]
    rw [hresult]
    exact hw.vec _ List.mem_cons_self _

/-- The one relational fact about instructions: states that agree on what an instruction reads stop alike, or go on to states
related by any `R` that the instruction's writes establish. -/
theorem exec_match {i : Instr} (h : SameInputs (vecRegs i) (lastOperand i) (operandEA i) s t)
    (hw : WritesKeep R (vecRegs i) i.len s t) : OutcomesMatch R (exec i s) (exec i t) := by
  cases i with
  | porMm e => exact execPorMm_match h hw
  | porXmm e => exact execPorXmm_match h hw
  | vporXmm e => exact vexOr_match Env.hasAVX h hw
  | vporYmm e => exact vexOr_match Env.hasAVX2 h hw
  | _ e => exact evexOr_match h hw

end

end Machine

end Sys2Proof
end

section
/-! The statements about every step that completes, and about flags and the x87 record: what is written is one
register and `pc` (R25, R34), and what is read is named by `SameInputs` (R26, R29). -/

namespace Sys2Proof.Machine

/-! ### What a completed step keeps -/

theorem wrapAddr_lt_addrSpace (m : Mode) (a : Addr) : (wrapAddr m a).toNat < addrSpace m := by
  rw [wrapAddr_toNat]
  cases m <;> exact Nat.mod_lt _ (by decide)

theorem exec_next_pc {i : Instr} {s t : State} (h : exec i s = .next t) :
    t.pc = wrapAddr s.mode (s.pc + BitVec.ofNat 64 i.len) := by
  obtain ⟨e, v, -, rfl⟩ | ⟨d, v, rfl⟩ := exec_next h <;> rfl

theorem exec_next_mem {i : Instr} {s t : State} (h : exec i s = .next t) : t.mem = s.mem := by
  obtain ⟨e, v, -, rfl⟩ | ⟨d, v, rfl⟩ := exec_next h <;> rfl

theorem exec_next_rflags {i : Instr} {s t : State} (h : exec i s = .next t) : t.rflags = s.rflags := by
  obtain ⟨e, v, -, rfl⟩ | ⟨d, v, rfl⟩ := exec_next h <;> rfl

theorem exec_next_params {i : Instr} {s t : State} (h : exec i s = .next t) : SameParams s t := by
  obtain ⟨e, v, -, rfl⟩ | ⟨d, v, rfl⟩ := exec_next h <;> exact ⟨rfl, rfl, rfl, rfl, rfl, rfl⟩

/-- Settles O17. -/
theorem stepKeepsParameters : Obligations.StepKeepsParameters := by
  intro s t h
  obtain ⟨i, -, hexec, -, -⟩ := step_next h
  exact exec_next_params hexec

/-- Settles O13: memory is not written, and `pc` is truncated to the mode's width. -/
theorem stepKeepsInv : Obligations.StepKeepsInv := by
  rintro s t ⟨hwf, -⟩ h
  obtain ⟨i, -, hexec, -, -⟩ := step_next h
  refine ⟨(exec_next_mem hexec).symm ▸ hwf, ?_⟩
  rw [exec_next_pc hexec, (exec_next_params hexec).mode]
  exact wrapAddr_lt_addrSpace ..

/-- Settles O14. -/
theorem resetHasInv : Obligations.ResetHasInv := ⟨reset_mem_wf, by decide⟩

/-- Settles O58: each part by the values of `State.reset`. -/
theorem resetIsTheLaunchPremise : Obligations.ResetIsTheLaunchPremise := by
  have hmmx : MmxEnabled State.reset := ⟨rfl, rfl, rfl, rfl⟩
  have hsse : SseEnabled State.reset := ⟨rfl, rfl, rfl, rfl⟩
  have hvex : VexEnabled State.reset := ⟨rfl, rfl, rfl, rfl⟩
  have hevex : EvexEnabled 128 State.reset := ⟨hvex, rfl, rfl, rfl, rfl, .inr rfl⟩
  have hflat : ∀ g, State.reset.segBase g = 0#64 := fun g => by cases g <;> rfl
  exact ⟨hmmx, hsse, hevex, rfl, rfl, rfl, rfl, rfl, rfl, hflat, rfl⟩

/-! ### Flags -/

theorem alignmentCheckEnabled_of_bit18 (s : State) {fl : BitVec 64} (h : fl.getLsbD 18 = s.rflags.getLsbD 18) :
    State.alignmentCheckEnabled { s with rflags := fl } = s.alignmentCheckEnabled := by
  simp only [State.alignmentCheckEnabled, State.eflagsAC, h]

theorem alignmentCheckEnabled_eq_false {s : State} (h : s.env.cr0AM = false ∨ s.env.cpl ≠ 3) :
    s.alignmentCheckEnabled = false := by
  obtain h | h := h <;> simp [State.alignmentCheckEnabled, h]

/-- No instruction reads the x87 record (R29), nor a flag but through the alignment check of a memory operand (R26, R28). -/
theorem sameInputs_rflags_x87 {i : Instr} {s : State} {fl : BitVec 64} (v : X87Side)
    (hac : (lastOperand i).isMem = true →
      State.alignmentCheckEnabled { s with rflags := fl } = s.alignmentCheckEnabled) :
    SameInputs (vecRegs i) (lastOperand i) (operandEA i) s { s with rflags := fl, x87 := v } :=
  { params := ⟨rfl, rfl, rfl, rfl, rfl, rfl⟩, mem := rfl, pc := rfl, mm := rfl, k := rfl
    vec := fun _ _ => rfl
    addr := fun _ => by rw [operandEA_eq, operandEA_eq]; rfl
    align := hac }

theorem exec_match_rflags {i : Instr} {s : State} {fl : BitVec 64}
    (hac : (lastOperand i).isMem = true →
      State.alignmentCheckEnabled { s with rflags := fl } = s.alignmentCheckEnabled) :
    OutcomesMatch (fun a b => b = { a with rflags := fl }) (exec i s) (exec i { s with rflags := fl }) :=
  exec_match (sameInputs_rflags_x87 s.x87 hac) { mmx := fun _ _ => rfl, vec := fun _ _ _ => rfl }

/-- Settles O18. -/
theorem flagsNeitherReadNorWritten : Obligations.FlagsNeitherReadNorWritten := by
  refine ⟨fun i s t => exec_next_rflags, fun i s fl hbit => ?_, fun i s fl hoff => ?_⟩
  · exact exec_match_rflags fun _ => alignmentCheckEnabled_of_bit18 s hbit
  · refine exec_match_rflags fun hmem => ?_
    have hoff : s.env.cr0AM = false ∨ s.env.cpl ≠ 3 := by simpa [hmem] using hoff
    rw [alignmentCheckEnabled_eq_false hoff, alignmentCheckEnabled_eq_false (s := { s with rflags := fl }) hoff]

/-! ### The x87 record -/

theorem State.x87Hi_mmxToX87 (s : State) (n r : BitVec 3) :
    (s.mmxToX87 n).x87Hi r = if r = n then 0xFFFF#16 else s.x87Hi r := by
  simp only [State.x87Hi, State.mmxToX87, Vector.getElem_set, BitVec.toNat_inj, eq_comm (a := n)]
  rfl

/-- Settles O26: row 1 by what it writes; that no instruction reads the record, since no field of `SameInputs` names it. -/
theorem porMmX87SideEffects : Obligations.PorMmX87SideEffects := by
  constructor
  case left =>
    intro e s t h
    obtain ⟨_, v, ⟨⟩, rfl⟩ | ⟨d, hd, -⟩ := exec_next_vecRegs h
    · have hhi (r : BitVec 3) := State.x87Hi_mmxToX87 (s.setMm e.mmDest v) e.mmDest r
      exact ⟨rfl, rfl, (hhi e.reg).trans (if_pos rfl), fun r hr => (hhi r).trans (if_neg hr)⟩
    · cases hd
  case right =>
    intro i s v
    exact exec_match (sameInputs_rflags_x87 v fun _ => rfl) { mmx := fun _ _ => rfl, vec := fun _ _ _ => rfl }

end Sys2Proof.Machine
end

section
/-! M32 (R21, R24): a well-formed instruction names no vector or general register above 7, so a step neither writes nor reads
one, and addresses are made of the low halves of general registers. -/

namespace Sys2Proof

/-! ### Registers of a well-formed M32 instruction -/

theorem vecNum_lt (r : BitVec 3) : (vecNum false false r).toNat < 8 := by
  revert r
  decide

theorem vvvvNum_lt {v : BitVec 4} (h : v.getLsbD 3 = false) : (vvvvNum false v).toNat < 8 := by
  revert v
  decide

theorem gprNum_lt (r : BitVec 3) : (gprNum false r).toNat < 8 := by
  revert r
  decide

theorem Legacy.rex_of_wf32 {sse : Bool} {e : Legacy} (h : e.wf sse .m32 = true) : e.rex = none := by
  simp only [Legacy.wf, rexOk, Bool.and_eq_true, Option.isNone_iff_eq_none] at h
  obtain ⟨⟨-, hrex⟩, -⟩ := h
  exact hrex

theorem Vex.ext_of_wf32 {e : Vex} (h : e.wf .m32 = true) :
    e.r = false ∧ e.form.x = false ∧ e.form.b = false ∧ e.vvvv.getLsbD 3 = false := by
  simp only [Vex.wf, Vex.regsOk, Bool.and_eq_true, Bool.not_eq_true'] at h
  tauto

theorem Evex.ext_of_wf32 {e : Evex} (h : e.wf .m32 = true) :
    e.r = false ∧ e.x = false ∧ e.b = false ∧ e.r2 = false ∧ e.v2 = false ∧ e.vvvv.getLsbD 3 = false := by
  simp only [Evex.wf, Evex.regsOk, Bool.and_eq_true, Bool.not_eq_true'] at h
  tauto

theorem Legacy.vecRegs_lt {sse : Bool} {e : Legacy} (h : e.wf sse .m32 = true) : ∀ r ∈ e.vecRegs, r.toNat < 8 := by
  have hrex := Legacy.rex_of_wf32 h
  simp only [Legacy.vecRegs, Legacy.xmmDest, hrex, rexR, rexB, List.mem_cons, Option.mem_toList, Option.map_eq_some_iff]
  rintro r (rfl | ⟨_, -, rfl⟩) <;> exact vecNum_lt _

theorem Vex.vecRegs_lt {e : Vex} (h : e.wf .m32 = true) : ∀ r ∈ e.vecRegs, r.toNat < 8 := by
  obtain ⟨hr, -, hb, hv⟩ := Vex.ext_of_wf32 h
  simp only [Vex.vecRegs, Vex.dest, Vex.src1, hr, hb, List.mem_cons, Option.mem_toList, Option.map_eq_some_iff]
  rintro r (rfl | rfl | ⟨_, -, rfl⟩)
  · exact vecNum_lt _
  · exact vvvvNum_lt hv
  · exact vecNum_lt _

theorem Evex.vecRegs_lt {e : Evex} (h : e.wf .m32 = true) : ∀ r ∈ e.vecRegs, r.toNat < 8 := by
  obtain ⟨hr, hx, hb, hr2, hv2, hv⟩ := Evex.ext_of_wf32 h
  simp only [Evex.vecRegs, Evex.dest, Evex.src1, hr, hx, hb, hr2, hv2, List.mem_cons, Option.mem_toList,
    Option.map_eq_some_iff]
  rintro r (rfl | rfl | ⟨_, -, rfl⟩)
  · exact vecNum_lt _
  · exact vvvvNum_lt hv
  · exact vecNum_lt _

namespace Machine

theorem vecRegs_lt {i : Instr} (h : i.wf .m32 = true) : ∀ r ∈ vecRegs i, r.toNat < 8 := by
  cases i with
  | porMm e => exact fun _ hr => absurd hr List.not_mem_nil
  | porXmm e => exact Legacy.vecRegs_lt h
  | vporXmm e | vporYmm e => exact Vex.vecRegs_lt h
  | _ e => exact Evex.vecRegs_lt h

theorem addrExt_of_wf32 {i : Instr} (h : i.wf .m32 = true) :
    Claims.indexExt i = false ∧ Claims.baseExt i = false := by
  cases i with
  | porMm e | porXmm e =>
    have hrex := Legacy.rex_of_wf32 h
    simp only [Claims.indexExt, Claims.baseExt, hrex, rexX, rexB, and_self]
  | vporXmm e | vporYmm e =>
    obtain ⟨-, hx, hb, -⟩ := Vex.ext_of_wf32 h
    exact ⟨hx, hb⟩
  | _ e =>
    obtain ⟨-, hx, hb, -⟩ := Evex.ext_of_wf32 h
    exact ⟨hx, hb⟩

/-! ### Nothing above 7 is written -/

theorem State.zmmAt_setZmm_high (s : State) {d r : BitVec 5} (v : BitVec Config.maxvl) (hd : d.toNat < 8)
    (hr : 8 ≤ r.toNat) : (s.setZmm d v).zmmAt r = s.zmmAt r := by
  have hne : r ≠ d := by
    rintro rfl
    omega
  rw [State.zmmAt_setZmm, if_neg hne]

/-- Settles O21: what a step runs is well-formed, so the one vector register it writes is below 8. -/
theorem step32KeepsHighVectors : Obligations.Step32KeepsHighVectors := by
  intro s t hmode h r hr
  obtain ⟨i, hdec, hexec, -, -⟩ := step_next h
  obtain ⟨e, v, -, rfl⟩ | ⟨d, hd, v, rfl⟩ := exec_next_vecRegs hexec
  · rfl
  · have hwf : i.wf .m32 = true := hmode ▸ decode_wf hdec
    exact State.zmmAt_setZmm_high s v (vecRegs_lt hwf d hd) hr

/-! ### Nothing above 7 is read -/

section
variable {s t : State}

theorem SameIn32.mode (h : SameIn32 s t) : s.mode = .m32 := h.1

theorem SameIn32.params (h : SameIn32 s t) : SameParams s t := h.2.1

theorem SameIn32.pc (h : SameIn32 s t) : t.pc = s.pc := by
  obtain ⟨-, -, -, -, -, -, hpc, -⟩ := h
  exact hpc

theorem addrReg_same32 (h : SameIn32 s t) (r : BitVec 3) :
    t.addrReg .a32 (gprNum false r) = s.addrReg .a32 (gprNum false r) := by
  obtain ⟨-, -, -, -, -, -, -, -, -, hgpr⟩ := h
  exact congrArg (BitVec.setWidth 64) (hgpr _ (gprNum_lt r))

/-- In M32 an address is made of the low halves of general registers 0 to 7 (R24, R79). -/
theorem effAddr_same32 (h : SameIn32 s t) (n8 len : Nat) (rm : Rm) :
    t.effAddr .a32 false false n8 len rm = s.effAddr .a32 false false n8 len rm := by
  have hreg := addrReg_same32 h
  have hindex : ∀ scale index, t.scaledIndex .a32 false scale index = s.scaledIndex .a32 false scale index :=
    fun scale index => by simp only [State.scaledIndex, hreg]
  have ht : t.mode = .m32 := h.params.mode.trans h.mode
  cases rm <;> simp only [State.effAddr, hreg, hindex, h.mode, ht]

theorem operandEA_same32 (h : SameIn32 s t) {i : Instr} (hwf : i.wf .m32 = true) : operandEA i t = operandEA i s := by
  obtain ⟨hx, hb⟩ := addrExt_of_wf32 hwf
  rw [operandEA_eq, operandEA_eq, hx, hb, h.params.mode, h.mode]
  exact effAddr_same32 h ..

theorem SameIn32.inputs (h : SameIn32 s t) {i : Instr} (hwf : i.wf .m32 = true) :
    SameInputs (vecRegs i) (lastOperand i) (operandEA i) s t := by
  have hea := operandEA_same32 h hwf
  obtain ⟨-, hp, hflags, hmm, -, hk, hpc, hmem, hzmm, -⟩ := h
  exact
    { params := hp, mem := hmem, pc := hpc, mm := hmm, k := hk
      vec := fun r hr => hzmm r (vecRegs_lt hwf r hr)
      addr := fun _ => hea
      align := fun _ => by simp only [State.alignmentCheckEnabled, State.eflagsAC, hp.env, hflags] }

theorem SameIn32.advance (h : SameIn32 s t) (len : Nat) : SameIn32 (s.advance len) (t.advance len) := by
  obtain ⟨hs, hp, hflags, hmm, hx87, hk, hpc, hmem, hzmm, hgpr⟩ := h
  refine ⟨hs, hp, hflags, hmm, hx87, hk, ?_, hmem, hzmm, hgpr⟩
  rw [State.advance_pc, State.advance_pc, hp.mode, hpc]

theorem SameIn32.setMmx (h : SameIn32 s t) (d : BitVec 3) (v : BitVec 64) :
    SameIn32 ((s.setMm d v).mmxToX87 d) ((t.setMm d v).mmxToX87 d) := by
  obtain ⟨hs, hp, hflags, hmm, hx87, hk, hpc, hmem, hzmm, hgpr⟩ := h
  refine ⟨hs, hp, hflags, ?_, ?_, hk, hpc, hmem, hzmm, hgpr⟩
  · simp only [State.mmxToX87_mm, State.setMm, hmm]
  · simp only [State.mmxToX87, State.setMm_x87, hx87]

theorem SameIn32.setZmm (h : SameIn32 s t) (d : BitVec 5) (v : BitVec Config.maxvl) :
    SameIn32 (s.setZmm d v) (t.setZmm d v) := by
  obtain ⟨hs, hp, hflags, hmm, hx87, hk, hpc, hmem, hzmm, hgpr⟩ := h
  refine ⟨hs, hp, hflags, hmm, hx87, hk, hpc, hmem, fun r hr => ?_, hgpr⟩
  rw [State.zmmAt_setZmm, State.zmmAt_setZmm, hzmm r hr]

theorem SameIn32.writes (h : SameIn32 s t) (regs : List (BitVec 5)) (len : Nat) :
    WritesKeep SameIn32 regs len s t :=
  { mmx := fun d v => (h.setMmx d v).advance len
    vec := fun d _ v => (h.setZmm d v).advance len }

theorem fetchBytes_congr (hpc : t.pc = s.pc) (htext : t.text = s.text) : t.fetchBytes = s.fetchBytes := by
  unfold State.fetchBytes
  rw [hpc, htext]

/-- Steps of states that fetch and decode alike match where the instructions they run do. -/
theorem step_match {R : State → State → Prop} (hp : SameParams s t) (hpc : t.pc = s.pc)
    (hexec : ∀ i, i.wf s.mode = true → OutcomesMatch R (exec i s) (exec i t)) : OutcomesMatch R (step s) (step t) := by
  obtain ⟨hmode, -, -, -, -, htext⟩ := hp
  unfold step
  rw [fetchBytes_congr hpc htext, hmode]
  cases s.fetchBytes with
  | error r => exact rfl
  | ok bytes =>
    dsimp only
    cases hdec : decode s.mode bytes with
    | instr i => exact hexec i (decode_wf hdec)
    | ud => exact (takeException_congr hpc .ud).symm
    | refused why => exact rfl

end

/-- Settles O22: the two states agree on what a well-formed instruction reads, and its writes keep their relation. -/
theorem step32IgnoresHighRegisters : Obligations.Step32IgnoresHighRegisters := by
  intro s t h
  refine step_match h.params h.pc fun i hwf => ?_
  rw [h.mode] at hwf
  exact exec_match (h.inputs hwf) (h.writes _ _)

end Machine

end Sys2Proof
end

section
/-! The segment of a memory operand (R32, R72, R79). -/

namespace Sys2Proof

theorem segOverride_cons_of_ne {p : LegacyPrefix} (ps : List LegacyPrefix) (hp : ∀ g, p ≠ .seg g) :
    segOverride (p :: ps) = segOverride ps := by
  cases p with
  | seg g => exact absurd rfl (hp g)
  | addrSize | opSize | repne | rep | lock => rfl

theorem segOverride_eq_none {ps : List LegacyPrefix} (h : ∀ g, .seg g ∉ ps) : segOverride ps = none := by
  induction ps with
  | nil => rfl
  | cons p ps ih =>
    have hp : ∀ g, p ≠ .seg g := fun g hg => h g (hg ▸ List.mem_cons_self)
    rw [segOverride_cons_of_ne ps hp]
    exact ih fun g hg => h g (List.mem_cons_of_mem p hg)

/-- No second segment override can stand before the one that is found, since the six form one group (R72). -/
theorem segOverride_eq_some {ps : List LegacyPrefix} {g : Seg} (hps : prefixGroupsDistinct ps = true)
    (h : .seg g ∈ ps) : segOverride ps = some g := by
  induction ps with
  | nil => cases h
  | cons p ps ih =>
    simp only [prefixGroupsDistinct, Bool.and_eq_true, List.all_eq_true, bne_iff_ne] at hps
    obtain ⟨hgroup, hrest⟩ := hps
    rcases List.mem_cons.1 h with rfl | hmem
    · rfl
    · have hp : ∀ g', p ≠ .seg g' := by
        rintro g' rfl
        exact hgroup _ hmem rfl
      rw [segOverride_cons_of_ne ps hp, ih hrest hmem]

theorem operandSeg_of_none {ps : List LegacyPrefix} (h : segOverride ps = none) (m : Mode) (b : Bool) (rm : Rm) :
    operandSeg m ps b rm = defaultSeg b rm := by
  rw [operandSeg, h]

theorem operandSeg_m32 {ps : List LegacyPrefix} {g : Seg} (h : segOverride ps = some g) (b : Bool) (rm : Rm) :
    operandSeg .m32 ps b rm = g := by
  rw [operandSeg, h]

theorem operandSeg_m64 {ps : List LegacyPrefix} {g : Seg} (h : segOverride ps = some g) (b : Bool) (rm : Rm) :
    operandSeg .m64 ps b rm = if g = .fs ∨ g = .gs then g else defaultSeg b rm := by
  rw [operandSeg, h]

/-- The general registers 4 and 5, `ESP` and `EBP`, need extension bit 0 (R79). -/
theorem gprNum_stack_iff (b : Bool) (r : BitVec 3) :
    gprNum b r = 4#4 ∨ gprNum b r = 5#4 ↔ b = false ∧ (r = 4#3 ∨ r = 5#3) := by
  revert b r
  decide

namespace Machine

theorem State.segBase_m64 {s : State} (h : s.mode = .m64) :
    s.segBase .es = 0#64 ∧ s.segBase .cs = 0#64 ∧ s.segBase .ss = 0#64 ∧ s.segBase .ds = 0#64 ∧
      s.segBase .fs = s.segs.fs.base ∧ s.segBase .gs = s.segs.gs.base := by
  simp only [State.segBase, h, and_self]

theorem State.segBase_m32 {s : State} (h : s.mode = .m32) (g : Seg) : s.segBase g = (s.segs.get g).base := by
  simp only [State.segBase, h]

/-- Settles O55. -/
theorem segmentOfTheOperand : Obligations.SegmentOfTheOperand := by
  refine ⟨?base64, ?base32, ?override, ?noOverride, ?operand, ?plain, ?seg32, ?fsgs64, ?other64, ?base, ?sib, ?disp,
    ?noBase⟩
  case base64 => exact fun s => State.segBase_m64
  case base32 => exact fun s h => ⟨State.segBase_m32 h _, State.segBase_m32 h _, State.segBase_m32 h _,
    State.segBase_m32 h _, State.segBase_m32 h _, State.segBase_m32 h _⟩
  case override => exact fun ps g => segOverride_eq_some
  case noOverride => exact fun ps => segOverride_eq_none
  case operand => exact operandSegment_eq
  case plain => exact fun m ps b rm h => operandSeg_of_none h m b rm
  case seg32 => exact fun ps b rm g h => operandSeg_m32 h b rm
  case fsgs64 => exact fun ps b rm g h hg => (operandSeg_m64 h b rm).trans (if_pos hg)
  case other64 => exact fun ps b rm g h hfs hgs => (operandSeg_m64 h b rm).trans (if_neg (not_or.2 ⟨hfs, hgs⟩))
  case base => exact fun b r d => by simp only [defaultSeg, gprNum_stack_iff]
  case sib => exact fun b scale index r d => by simp only [defaultSeg, gprNum_stack_iff]
  case disp => exact fun b d => rfl
  case noBase => exact fun b scale index d => rfl

end Machine

end Sys2Proof
end

section
/-! An enabled instruction with a memory operand does what its one memory read makes of it (R157, R158 (4)): the control-state
check passes exactly where the form is enabled, and the last source of every family is that read. -/

namespace Sys2Proof

open Machine

/-! ### The last source of each family -/

theorem Rm.asReg_of_isMem {rm : Rm} (h : rm.isMem = true) : rm.asReg = none := by
  simpa [Rm.isMem] using h

section
variable (s : State)

theorem Legacy.mmSource_mem {e : Legacy} (h : e.rm.isMem = true) :
    e.mmSource s = (s.memRead .mmx (e.seg s) (e.effAddr s) 8).map (leValue 64) := by
  simp only [Legacy.mmSource, Rm.asReg_of_isMem h]

theorem Legacy.xmmSource_mem {e : Legacy} (h : e.rm.isMem = true) :
    e.xmmSource s = (s.memRead .sse (e.seg s) (e.effAddr s) 16).map (leValue 128) := by
  simp only [Legacy.xmmSource, Rm.asReg_of_isMem h]

theorem Vex.source_mem {e : Vex} (vl : Nat) (h : e.rm.isMem = true) :
    e.source vl s = (s.memRead .vector (e.seg s) (e.effAddr s) (vl / 8)).map (leValue vl) := by
  simp only [Vex.source, Rm.asReg_of_isMem h]

theorem Evex.source_mem {e : Evex} (es vl : Nat) (h : e.rm.isMem = true) :
    e.source es vl s =
      (s.memRead .vector (e.seg s) (e.effAddr es vl s) (e.memBytes es vl)).map (e.memValue es vl) := by
  simp only [Evex.source, Rm.asReg_of_isMem h]

end

namespace Machine

/-! ### The control-state check of each class -/

/-- One condition of a check: the check passes when the condition does not hold and the rest passes. -/
theorem check_eq_none_iff {c : Prop} [Decidable c] (x : Exc) (rest : Option Exc) :
    (if c then some x else rest) = none ↔ ¬ c ∧ rest = none := by
  by_cases h : c <;> simp [h]

theorem extractLsb'_eq_allOnes_iff {w : Nat} (v : BitVec w) (start len : Nat) :
    v.extractLsb' start len = BitVec.allOnes len ↔ ∀ i, i < len → v.getLsbD (start + i) = true := by
  rw [BitVec.eq_of_getLsbD_eq_iff]
  refine forall₂_congr fun i hi => ?_
  simp [hi]

section
variable {s : State}

theorem State.avxEnabled_iff :
    s.avxEnabled = true ↔ s.env.xcr0.getLsbD 1 = true ∧ s.env.xcr0.getLsbD 2 = true := by
  rw [State.avxEnabled, beq_iff_eq]
  refine (extractLsb'_eq_allOnes_iff s.env.xcr0 1 2).trans ?_
  simp only [Nat.forall_lt_succ_left, Nat.not_lt_zero, false_implies, implies_true, and_true]

theorem State.avx512Enabled_iff :
    s.avx512Enabled = true ↔ (s.env.xcr0.getLsbD 1 = true ∧ s.env.xcr0.getLsbD 2 = true) ∧
      s.env.xcr0.getLsbD 5 = true ∧ s.env.xcr0.getLsbD 6 = true ∧ s.env.xcr0.getLsbD 7 = true := by
  rw [State.avx512Enabled, Bool.and_eq_true, State.avxEnabled_iff, beq_iff_eq]
  refine and_congr_right fun _ => (extractLsb'_eq_allOnes_iff s.env.xcr0 5 3).trans ?_
  simp only [Nat.forall_lt_succ_left, Nat.not_lt_zero, false_implies, implies_true, and_true]

theorem State.evexFeature_iff (vl : Nat) :
    s.evexFeature vl = true ↔ s.env.hasAVX512F = true ∧ (vl = 512 ∨ s.env.hasAVX512VL = true) := by
  simp only [State.evexFeature, Bool.and_eq_true, Bool.or_eq_true, beq_iff_eq]

theorem State.checkMmx_eq_none_iff : s.checkMmx = none ↔ MmxEnabled s := by
  simp only [State.checkMmx, MmxEnabled, check_eq_none_iff, not_or, Bool.not_eq_true, Bool.not_eq_false, and_assoc,
    and_true]

theorem State.checkSse_eq_none_iff : s.checkSse = none ↔ SseEnabled s := by
  simp only [State.checkSse, SseEnabled, check_eq_none_iff, not_or, Bool.not_eq_true, Bool.not_eq_false, and_assoc,
    and_true]

theorem State.checkVex_eq_none_iff (feature : Bool) :
    s.checkVex feature = none ↔ VexEnabled s ∧ feature = true := by
  simp only [State.checkVex, VexEnabled, check_eq_none_iff, not_or, Bool.not_eq_true, Bool.not_eq_false,
    State.avxEnabled_iff]
  tauto

theorem State.checkEvex_eq_none_iff (vl : Nat) (e : Evex) :
    s.checkEvex vl e = none ↔ EvexEnabled vl s ∧ e.zeroNoMask = false := by
  simp only [State.checkEvex, EvexEnabled, VexEnabled, check_eq_none_iff, not_or, Bool.not_eq_true, Bool.not_eq_false,
    State.avx512Enabled_iff, State.evexFeature_iff]
  tauto

/-! ### The one memory read of an instruction -/

/-- The memory read that fetches the last operand of an instruction (R54, R114). -/
def operandRead (i : Instr) (s : State) : Except Stop (List Byte) :=
  s.memRead (alignRule i) (operandSegment i s) (operandEA i s) (operandBytes i)

/-- What becomes of an instruction whose operand read stops (R157, R94). -/
def Stop.outcome (s : State) : Stop → Host.Outcome State Fault Refusal
  | .exc x => .fault (takeException x s)
  | .refuse r => .refused r

theorem runForm_error {α : Type} (stop : Stop) (finish : α → State) :
    runForm s none (.error stop) finish = stop.outcome s := by
  cases stop <;> rfl

theorem runForm_map {α β : Type} (src : Except Stop α) (value : α → β) (finish : β → State) :
    runForm s none (src.map value) finish = runForm s none src (finish ∘ value) := by
  cases src with
  | error stop => rw [Except.map, runForm_error, runForm_error]
  | ok v => rfl

theorem evexOr_mem {e : Evex} {es vl : Nat} (hmem : e.rm.isMem = true)
    (hen : EvexEnabled vl s ∧ e.zeroNoMask = false) :
    ∃ finish, evexOr es vl e s =
      runForm s none (s.memRead .vector (e.seg s) (e.effAddr es vl s) (e.memBytes es vl)) finish := by
  rw [evexOr, (State.checkEvex_eq_none_iff vl e).2 hen, e.source_mem s es vl hmem, runForm_map]
  exact ⟨_, rfl⟩

theorem vexOr_mem {e : Vex} {vl : Nat} {feature : Bool} (hmem : e.rm.isMem = true)
    (hen : VexEnabled s ∧ feature = true) :
    ∃ finish, vexOr vl feature e s =
      runForm s none (s.memRead .vector (e.seg s) (e.effAddr s) (vl / 8)) finish := by
  rw [vexOr, (State.checkVex_eq_none_iff feature).2 hen, e.source_mem s vl hmem, runForm_map]
  exact ⟨_, rfl⟩

/-- Nothing but the operand read is left to stop an enabled instruction. -/
theorem exec_mem {i : Instr} (hen : Enabled i s) (hmem : (lastOperand i).isMem = true) :
    ∃ finish, exec i s = runForm s none (operandRead i s) finish := by
  cases i with
  | porMm e =>
    rw [exec, execPorMm, State.checkMmx_eq_none_iff.2 hen, e.mmSource_mem s hmem, runForm_map]
    exact ⟨_, rfl⟩
  | porXmm e =>
    rw [exec, execPorXmm, State.checkSse_eq_none_iff.2 hen, e.xmmSource_mem s hmem, runForm_map]
    exact ⟨_, rfl⟩
  | vporXmm e | vporYmm e => exact vexOr_mem hmem hen
  | _ e => exact evexOr_mem hmem hen

theorem exec_of_operandRead_error {i : Instr} {stop : Stop} (hen : Enabled i s)
    (hmem : (lastOperand i).isMem = true) (h : operandRead i s = .error stop) : exec i s = stop.outcome s := by
  obtain ⟨finish, hexec⟩ := exec_mem hen hmem
  rw [hexec, h, runForm_error]

end

end Machine

end Sys2Proof
end

section
/-! The addresses of an operand, what its bytes translate to, and the first failing check of a memory read, one lemma per
check (R51 to R54, R60, R156). -/

namespace Sys2Proof.Machine

open Claims

/-! ### Addresses -/

theorem addrSpace_dvd (m : Mode) : addrSpace m ∣ 2 ^ 64 := by
  cases m <;> decide

theorem wrapAddr_add_toNat (m : Mode) (a b : Addr) :
    (wrapAddr m (a + b)).toNat = (a.toNat + b.toNat) % addrSpace m := by
  have hwrap : (wrapAddr m (a + b)).toNat = (a + b).toNat % addrSpace m := by
    rw [wrapAddr_toNat]
    cases m <;> rfl
  rw [hwrap, BitVec.toNat_add, Nat.mod_mod_of_dvd _ (addrSpace_dvd m)]

section
variable {s : State}

theorem State.byteAddr_toNat (la : Addr) (k : Nat) : (s.byteAddr la k).toNat = (la.toNat + k) % addrSpace s.mode := by
  rw [State.byteAddr, wrapAddr_add_toNat, BitVec.toNat_ofNat, Nat.add_mod, Nat.mod_mod_of_dvd _ (addrSpace_dvd s.mode),
    ← Nat.add_mod]

theorem State.byteAddr_m64 (h : s.mode = .m64) (la : Addr) (k : Nat) : s.byteAddr la k = la + BitVec.ofNat 64 k := by
  rw [State.byteAddr, h, wrapAddr]

/-! ### Translation -/

theorem State.physByte_ok_iff {i : Nat} {b : Byte} : s.physByte i = .ok b ↔ Memory.read s.mem i = some b := by
  unfold State.physByte
  cases Memory.read s.mem i <;> simp

theorem State.pfCode_notPresent : s.pfCode false false = usBit s := by
  simp [State.pfCode, usBit]

theorem State.pfCode_reservedBit : s.pfCode true true = 9#32 ||| usBit s := by
  unfold State.pfCode usBit
  by_cases h : s.env.cpl = 3 <;> simp [h]

theorem State.pfCode_supervisor (h : s.env.cpl = 3) : s.pfCode true false = 5#32 := by
  simp [State.pfCode, h]

theorem answersFrom_of_translate_eq {a : Addr} {i : Nat} (h : s.translate a = s.physByte i) : answersFrom s a i := by
  refine ⟨fun b hb => h.trans (State.physByte_ok_iff.2 hb), fun hnone => ?_⟩
  rw [h, State.physByte, hnone, ← State.pfCode_notPresent]

theorem State.translate_of_no_page {a : Addr} (h : ∀ p ∈ s.pages, ¬ inPage p a) :
    s.translate a = s.physByte a.toNat := by
  rw [State.translate, (State.pageOf_eq_none_iff s a).2 h]

section
variable {a : Addr} {p : Page} (hpage : s.pageOf a = some p)
include hpage

theorem State.translate_notPresent (hkind : p.kind = .notPresent) :
    s.translate a = .error (s.pfCode false false) := by
  simp only [State.translate, hpage, hkind]

theorem State.translate_reservedBit (hkind : p.kind = .reservedBit) :
    s.translate a = .error (s.pfCode true true) := by
  simp only [State.translate, hpage, hkind]

theorem State.translate_supervisor {phys : Nat} (hkind : p.kind = .present phys false) (hcpl : s.env.cpl = 3) :
    s.translate a = .error (s.pfCode true false) := by
  simp only [State.translate, hpage, hkind, hcpl, and_self, if_true]

theorem State.translate_present {phys : Nat} {user : Bool} (hkind : p.kind = .present phys user)
    (hallowed : user = true ∨ s.env.cpl ≠ 3) : s.translate a = s.physByte (phys + (a.toNat - p.lo)) := by
  have hpass : ¬ (user = false ∧ s.env.cpl = 3) := by
    rintro ⟨rfl, hcpl⟩
    exact hallowed.elim Bool.false_ne_true fun hne => hne hcpl
  simp only [State.translate, hpage, hkind, hpass, if_false]

end

theorem State.readBytes_of_translate {la : Addr} {n : Nat} {f : Nat → Byte}
    (h : ∀ k, k < n → s.translate (s.byteAddr la k) = .ok (f k)) :
    s.readBytes la 0 n = .ok ((List.range n).map f) := by
  refine (State.readBytes_ok_iff s la 0 n _).2 ⟨by simp, fun k hk => ?_⟩
  have hkn : k < n := by simpa using hk
  simpa using h k hkn

/-! ### The checks of a memory read -/

theorem aligned_iff (la : Addr) (n : Nat) : aligned la n = true ↔ la.toNat % n = 0 := by
  rw [aligned, beq_iff_eq]

theorem aligned_eq_false_iff (la : Addr) (n : Nat) : aligned la n = false ↔ la.toNat % n ≠ 0 := by
  rw [← Bool.not_eq_true, aligned_iff]

theorem State.segmentOk_m64_iff (h : s.mode = .m64) (g : Seg) (ea la : Addr) (n : Nat) :
    s.segmentOk g ea la n = true ↔ ∀ k, k < n → bitsAllEqual s.linearWidth (la + BitVec.ofNat 64 k) := by
  simp only [State.segmentOk, State.byteAddr_m64 h, h, List.all_eq_true, List.mem_range, canonical_iff, bitsAllEqual]

/-- An operand has at least one byte, and its last one decides whether it passes the limit. -/
theorem State.segmentOk_m32_iff (h : s.mode = .m32) (g : Seg) (ea la : Addr) {n : Nat} (hn : 0 < n) :
    s.segmentOk g ea la n = true ↔ (s.segs.get g).readable = true ∧
      ∀ l : BitVec 32, (s.segs.get g).limit = some l → ∀ k, k < n → ea.toNat + k ≤ l.toNat := by
  rw [State.segmentOk, h]
  cases hlim : (s.segs.get g).limit with
  | none => simp
  | some l =>
    have hlast : ea.toNat + n ≤ l.toNat + 1 ↔ ∀ k, k < n → ea.toNat + k ≤ l.toNat :=
      ⟨fun hle k hk => by omega, fun hall => by have := hall (n - 1) (by omega); omega⟩
    simp [hlast]

section
variable {rule : AlignRule} {g : Seg} {ea : Addr} {n : Nat}

theorem State.memRead_segment (h : s.segmentOk g ea (s.linearAddr g ea) n = false) :
    s.memRead rule g ea n = .error (.exc (segmentExc g)) := by
  simp [State.memRead, h]

section
variable (hseg : s.segmentOk g ea (s.linearAddr g ea) n = true)
include hseg

theorem State.memRead_sse_misaligned (h : (s.linearAddr g ea).toNat % 16 ≠ 0) :
    s.memRead .sse g ea n = .error (.exc .gp) := by
  simp [State.memRead, hseg, (aligned_eq_false_iff _ _).2 h]

theorem State.memRead_pageFault (hsse : rule = .sse → (s.linearAddr g ea).toNat % 16 = 0) {a : Addr} {c : BitVec 32}
    (h : s.readBytes (s.linearAddr g ea) 0 n = .error (a, c)) :
    s.memRead rule g ea n = .error (.exc (.pf c a)) := by
  have hpass : ¬ (rule = .sse ∧ aligned (s.linearAddr g ea) 16 = false) := by
    rw [aligned_eq_false_iff]
    exact fun ⟨hr, hmis⟩ => hmis (hsse hr)
  simp [State.memRead, hseg, hpass, h]

section
variable {bs : List Byte} (hbytes : s.readBytes (s.linearAddr g ea) 0 n = .ok bs)
  (hac : s.alignmentCheckEnabled = true)
include hbytes hac

theorem State.memRead_alignmentCheck (h : (s.linearAddr g ea).toNat % 8 ≠ 0) :
    s.memRead .mmx g ea n = .error (.exc .ac) := by
  simp [State.memRead, hseg, hbytes, hac, (aligned_eq_false_iff _ _).2 h]

theorem State.memRead_misalignedVector (h : (s.linearAddr g ea).toNat % n ≠ 0) :
    s.memRead .vector g ea n = .error (.refuse .misalignedVector) := by
  simp [State.memRead, hseg, hbytes, hac, (aligned_eq_false_iff _ _).2 h]

end

end

end

/-! ### The segment check of an instruction's operand -/

theorem takeException_segmentExc (g : Seg) : takeException (segmentExc g) s = segmentFault g s.pc := by
  cases g <;> rfl

theorem operandBytes_pos (i : Instr) : 0 < operandBytes i := by
  cases i with
  | porMm | porXmm | vporXmm | vporYmm => exact Nat.zero_lt_succ _
  | _ e => cases h : e.bcast <;> simp [operandBytes, h]

theorem operandInSegment_m64_iff (i : Instr) (h : s.mode = .m64) :
    OperandInSegment i s ↔
      ∀ k, k < operandBytes i → bitsAllEqual s.linearWidth (operandLA i s + BitVec.ofNat 64 k) :=
  State.segmentOk_m64_iff h ..

theorem operandInSegment_m32_iff (i : Instr) (h : s.mode = .m32) :
    OperandInSegment i s ↔ (s.segs.get (operandSegment i s)).readable = true ∧
      ∀ l : BitVec 32, (s.segs.get (operandSegment i s)).limit = some l →
        ∀ k, k < operandBytes i → (operandEA i s).toNat + k ≤ l.toNat :=
  State.segmentOk_m32_iff h _ _ _ (operandBytes_pos i)

theorem exec_of_not_operandInSegment {i : Instr} (hen : Enabled i s) (hmem : (lastOperand i).isMem = true)
    (h : ¬ OperandInSegment i s) : exec i s = .fault (segmentFault (operandSegment i s) s.pc) := by
  have hread : operandRead i s = .error (.exc (segmentExc (operandSegment i s))) :=
    State.memRead_segment (Bool.eq_false_iff.2 h)
  rw [exec_of_operandRead_error hen hmem hread, Stop.outcome, takeException_segmentExc]

end

end Sys2Proof.Machine
end

section
/-! The statements about memory: runs do not write it (R55, R57), what a byte of it reads as and translates to (R60, R61), where
an operand stands (R53), and how an operand that cannot be read stops the instruction (R52, R54, R65, R156). -/

namespace Sys2Proof.Machine

open Claims

/-! ### Runs -/

theorem Untouched.refl (s : State) : Untouched s s :=
  ⟨⟨rfl, rfl, rfl, rfl, rfl, rfl⟩, rfl, rfl, rfl, rfl, fun _ => rfl⟩

theorem SameParams.trans {s t u : State} (hst : SameParams s t) (htu : SameParams t u) : SameParams s u := by
  obtain ⟨h1, h2, h3, h4, h5, h6⟩ := hst
  obtain ⟨k1, k2, k3, k4, k5, k6⟩ := htu
  exact ⟨k1.trans h1, k2.trans h2, k3.trans h3, k4.trans h4, k5.trans h5, k6.trans h6⟩

theorem Untouched.trans {s t u : State} (hst : Untouched s t) (htu : Untouched t u) : Untouched s u := by
  obtain ⟨hparams, hflags, hx, hk, hcr2, hmem⟩ := hst
  obtain ⟨kparams, kflags, kx, kk, kcr2, kmem⟩ := htu
  exact ⟨hparams.trans kparams, kflags.trans hflags, kx.trans hx, kk.trans hk, kcr2.trans hcr2,
    fun a => (kmem a).trans (hmem a)⟩

theorem exec_next_untouched {i : Instr} {s t : State} (h : exec i s = .next t) : Untouched s t := by
  obtain ⟨e, v, -, rfl⟩ | ⟨d, v, rfl⟩ := exec_next h
  · exact Untouched.refl s
  · exact Untouched.refl s

theorem step_next_untouched {s t : State} (h : step s = .next t) : Untouched s t := by
  obtain ⟨i, -, hexec, -, -⟩ := step_next h
  exact exec_next_untouched hexec

/-- Settles O20, by induction on the number of steps. -/
theorem runLeavesReadOnlyState : Obligations.RunLeavesReadOnlyState := by
  intro n
  induction n with
  | zero =>
    intro s t h
    cases h
    exact Untouched.refl s
  | succ n ih =>
    intro s t h
    obtain ⟨s', hstep, hrun⟩ := run_next_succ core h
    exact (step_next_untouched hstep).trans (ih s' t hrun)

/-! ### Bytes of memory -/

/-- Settles O56. -/
theorem memoryReadsWhatWasWritten : Obligations.MemoryReadsWhatWasWritten :=
  Memory.read_write

/-- Settles O59: `pageOf` finds the first range that holds the address, and its kind answers. -/
theorem translateReadsMemory : Obligations.TranslateReadsMemory := by
  intro s a
  refine ⟨fun hno => answersFrom_of_translate_eq (State.translate_of_no_page hno), ?_⟩
  intro before after p hpages hbefore hin
  have hpage : s.pageOf a = some p := (State.pageOf_eq_some_iff s a p).2 ⟨hin, before, after, hpages, hbefore⟩
  refine ⟨fun hkind => ?notPresent, fun hkind => ?reservedBit, fun phys hkind hcpl => ?supervisor,
    fun phys user hkind hallowed => ?present⟩
  case notPresent => rw [State.translate_notPresent hpage hkind, State.pfCode_notPresent]
  case reservedBit => rw [State.translate_reservedBit hpage hkind, State.pfCode_reservedBit]
  case supervisor => rw [State.translate_supervisor hpage hkind hcpl, State.pfCode_supervisor hcpl]
  case present => exact answersFrom_of_translate_eq (State.translate_present hpage hkind hallowed)

/-! ### Where the operand stands -/

/-- Settles O53. -/
theorem linearAddressIsTheSum : Obligations.LinearAddressIsTheSum :=
  fun i s => wrapAddr_add_toNat s.mode (s.segBase (operandSegment i s)) (operandEA i s)

/-- Settles O60: byte by byte. -/
theorem untranslatedOperandIsMemory : Obligations.UntranslatedOperandIsMemory := by
  intro i s f hpages
  refine forall₂_congr fun k _ => ?_
  have hno : ∀ p ∈ s.pages, ¬ inPage p (s.byteAddr (operandLA i s) k) := by simp [hpages]
  rw [State.translate_of_no_page hno, State.physByte_ok_iff, State.byteAddr_toNat]

/-! ### Operands that cannot be read -/

/-- Settles O43. -/
theorem nonCanonicalOperandTraps : Obligations.NonCanonicalOperandTraps := by
  refine ⟨rfl, rfl, rfl, fun i s k j hen hmem hmode hk hj hj63 hbit => ?_, fun i s => operandInSegment_m64_iff i⟩
  refine exec_of_not_operandInSegment hen hmem fun hin => ?_
  exact hbit ((operandInSegment_m64_iff i hmode).1 hin k hk j hj hj63)

/-- Settles O44. -/
theorem segmentViolationTraps : Obligations.SegmentViolationTraps := by
  refine ⟨fun i s hen hmem hmode hviol => ?_, fun i s => operandInSegment_m32_iff i⟩
  refine exec_of_not_operandInSegment hen hmem fun hin => ?_
  obtain ⟨hreadable, hlimit⟩ := (operandInSegment_m32_iff i hmode).1 hin
  obtain ⟨l, k, hl, hk, hpast⟩ | hunreadable := hviol
  · exact absurd (hlimit l hl k hk) (Nat.not_le.2 hpast)
  · exact absurd hreadable (Bool.eq_false_iff.1 hunreadable)

/-- Settles O45. -/
theorem porXmmMisalignedTraps : Obligations.PorXmmMisalignedTraps := by
  intro e s hen hmem hseg hmis
  have hread : operandRead (.porXmm e) s = .error (.exc .gp) := State.memRead_sse_misaligned hseg hmis
  exact exec_of_operandRead_error (i := .porXmm e) hen hmem hread

/-- Settles O46: the read fails with the failing byte of the lowest address, and the checks before it pass. -/
theorem unmappedOperandTraps : Obligations.UnmappedOperandTraps := by
  intro i s k c hen hmem hseg hsse hk hc hlowest
  have hbytes : s.readBytes (operandLA i s) 0 (operandBytes i) = .error (s.byteAddr (operandLA i s) k, c) := by
    refine (State.readBytes_error_iff ..).2 ⟨⟨k, hk, by rw [Nat.zero_add], hc⟩, fun j hj hfail => ?_⟩
    rw [Nat.zero_add] at hfail ⊢
    exact hlowest j hj hfail
  have hread : operandRead i s = .error (.exc (.pf c (s.byteAddr (operandLA i s) k))) :=
    State.memRead_pageFault hseg hsse hbytes
  exact exec_of_operandRead_error hen hmem hread

/-- Settles O47: every check before the alignment check passes. -/
theorem alignmentCheckStops : Obligations.AlignmentCheckStops := by
  intro i s f hen hmem hseg hbytes ham hflag hcpl
  have hac : s.alignmentCheckEnabled = true := by
    simp [State.alignmentCheckEnabled, State.eflagsAC, ham, hflag, hcpl]
  have hok := State.readBytes_of_translate hbytes
  refine ⟨fun hrule hmis => ?row1, fun hrule hmis => ?rows3to10⟩
  case row1 =>
    have hread : operandRead i s = .error (.exc .ac) := by
      rw [operandRead, hrule]
      exact State.memRead_alignmentCheck hseg hok hac hmis
    exact exec_of_operandRead_error hen hmem hread
  case rows3to10 =>
    have hread : operandRead i s = .error (.refuse .misalignedVector) := by
      rw [operandRead, hrule]
      exact State.memRead_misalignedVector hseg hok hac hmis
    exact exec_of_operandRead_error hen hmem hread

end Sys2Proof.Machine
end

section
/-! The decoder on bytes laid out as the encoder lays them out (R70 to R91): one equation per stage of the decode procedure,
for the bytes that stage takes. -/

namespace Sys2Proof

/-! ### Prefixes and the first opcode byte (R91 steps 1 to 3) -/

section
variable {m : Mode} {ps : List LegacyPrefix}

theorem decode_prefixBytes_append (hps : prefixGroupsDistinct ps = true) {b : Byte} (hb : legacyPrefixOf b = none)
    (bs : List Byte) :
    decode m (prefixBytes ps ++ b :: bs) =
      if m = .m64 ∧ isRexByte b = true then decodeAfterRex m ps (rexOfByte b) bs
      else if b = 0x0F#8 then decodeLegacy m ps none bs
      else (decodeVexFamily m ps b bs).getD (.refused .notInScope) := by
  simp only [decode, takePrefixes_append ps bs hb, if_pos hps]

theorem decode_legacy (hps : prefixGroupsDistinct ps = true) (bs : List Byte) :
    decode m (prefixBytes ps ++ 0x0F#8 :: bs) = decodeLegacy m ps none bs := by
  rw [decode_prefixBytes_append hps (by decide), if_neg (fun h => absurd h.2 (by decide)), if_pos rfl]

theorem decode_rex (hps : prefixGroupsDistinct ps = true) (r : Rex) (bs : List Byte) :
    decode .m64 (prefixBytes ps ++ r.byte :: bs) = decodeAfterRex .m64 ps r bs := by
  rw [decode_prefixBytes_append hps r.byte_isRex.2, if_pos ⟨rfl, r.byte_isRex.1⟩, rexOfByte_byte]

theorem decode_rex_legacy (hps : prefixGroupsDistinct ps = true) (r : Rex) (bs : List Byte) :
    decode .m64 (prefixBytes ps ++ r.byte :: 0x0F#8 :: bs) = decodeLegacy .m64 ps (some r) bs :=
  decode_rex hps r _

/-- The three bytes that begin a VEX or EVEX form. -/
theorem decode_vexFamily (hps : prefixGroupsDistinct ps = true) {b : Byte} (bs : List Byte)
    (hb : b = 0xC5#8 ∨ b = 0xC4#8 ∨ b = 0x62#8) :
    decodeVexFamily m ps b bs = some (decode m (prefixBytes ps ++ b :: bs)) := by
  obtain ⟨hlegacy, hrex, h0F⟩ : legacyPrefixOf b = none ∧ isRexByte b = false ∧ b ≠ 0x0F#8 := by
    rcases hb with rfl | rfl | rfl <;> decide
  obtain ⟨d, hd⟩ : ∃ d, decodeVexFamily m ps b bs = some d := by
    rcases hb with rfl | rfl | rfl <;> exact ⟨_, rfl⟩
  rw [decode_prefixBytes_append hps hlegacy, if_neg (fun h => by simp [hrex] at h), if_neg h0F, hd, Option.getD_some]

theorem decode_vex2 (hps : prefixGroupsDistinct ps = true) (bs : List Byte) :
    decode m (prefixBytes ps ++ 0xC5#8 :: bs) = decodeVex2 m ps bs :=
  (Option.some.inj (decode_vexFamily hps bs (.inl rfl))).symm

theorem decode_vex3 (hps : prefixGroupsDistinct ps = true) (bs : List Byte) :
    decode m (prefixBytes ps ++ 0xC4#8 :: bs) = decodeVex3 m ps bs :=
  (Option.some.inj (decode_vexFamily hps bs (.inr (.inl rfl)))).symm

theorem decode_evex (hps : prefixGroupsDistinct ps = true) (bs : List Byte) :
    decode m (prefixBytes ps ++ 0x62#8 :: bs) = decodeEvex m ps bs :=
  (Option.some.inj (decode_vexFamily hps bs (.inr (.inr rfl)))).symm

/-! ### ModRM on (R91 step 5) -/

theorem finishForm_bytes (haddr : addr16Ok m ps = true) (build : BitVec 3 → Rm → Decoded) (reg : BitVec 3) {rm : Rm}
    (hrm : rm.wf = true) (rest : List Byte) : finishForm m ps (rm.bytes reg ++ rest) build = build reg rm := by
  simp only [finishForm, if_pos haddr, readModRM_bytes reg hrm]

/-! ### The legacy family (R73, R92) -/

/-- The row that the presence of `66` selects (R73). -/
def legacyRow (sse : Bool) (e : Legacy) : Instr := if sse then .porXmm e else .porMm e

theorem encode_legacyRow (sse : Bool) (e : Legacy) : encode (legacyRow sse e) = e.bytes := by
  cases sse <;> rfl

theorem Legacy.bytes_append (e : Legacy) (rest : List Byte) :
    e.bytes ++ rest =
      prefixBytes e.prefixes ++ ((e.rex.map Rex.byte).toList ++ 0x0F#8 :: 0xEB#8 :: (e.rm.bytes e.reg ++ rest)) := by
  simp [Legacy.bytes]

theorem decodeLegacy_lock (h : LegacyPrefix.lock ∈ ps) (rex : Option Rex) (bs : List Byte) :
    decodeLegacy m ps rex (0xEB#8 :: bs) = .ud := by
  simp [decodeLegacy, h]

theorem decodeLegacy_rep (hlock : LegacyPrefix.lock ∉ ps) (h : LegacyPrefix.repne ∈ ps ∨ LegacyPrefix.rep ∈ ps)
    (rex : Option Rex) (bs : List Byte) : decodeLegacy m ps rex (0xEB#8 :: bs) = .refused .repBeforeLegacy := by
  simp [decodeLegacy, hlock, h]

theorem decodeLegacy_ok (h : ps.all LegacyPrefix.okBeforeLegacy = true) (rex : Option Rex) (bs : List Byte) :
    decodeLegacy m ps rex (0xEB#8 :: bs) =
      finishForm m ps bs fun reg rm => .instr (legacyRow (ps.contains .opSize) ⟨ps, rex, reg, rm⟩) := by
  have absent (p : LegacyPrefix) (hp : p.okBeforeLegacy = false) : ps.contains p = false := by
    rw [List.contains_eq_mem, decide_eq_false_iff_not]
    intro hmem
    rw [List.all_eq_true.1 h p hmem] at hp
    cases hp
  simp only [decodeLegacy, absent .lock rfl, absent .repne rfl, absent .rep rfl]
  cases ps.contains .opSize <;> rfl

/-! ### VEX (R82 to R84) -/

/-- The row that VEX.L selects (R84). -/
def vexRow (l : Bool) (e : Vex) : Instr := if l then .vporYmm e else .vporXmm e

theorem encode_vexRow (l : Bool) (e : Vex) : encode (vexRow l e) = e.bytes l := by
  cases l <;> rfl

theorem vexInMode_iff (m : Mode) (p : Byte) : vexInMode m p = true ↔ m = .m64 ∨ p.extractLsb' 6 2 = 3#2 := by
  cases m <;> simp [vexInMode]

theorem illegalBeforeVex_iff (ps : List LegacyPrefix) :
    illegalBeforeVex ps = true ↔ ∃ p ∈ ps, p = .opSize ∨ p = .repne ∨ p = .rep ∨ p = .lock := by
  have not_ok_iff (p : LegacyPrefix) :
      p.okBeforeVex = false ↔ p = .opSize ∨ p = .repne ∨ p = .rep ∨ p = .lock := by
    cases p <;> simp [LegacyPrefix.okBeforeVex]
  simp [illegalBeforeVex, not_ok_iff]

theorem decodeVexBody_illegal (h : illegalBeforeVex ps = true) (form : VexForm) (r l : Bool) (map : BitVec 5)
    (vvvv : BitVec 4) (pp : BitVec 2) (bs : List Byte) : decodeVexBody m ps form r map vvvv l pp bs = .ud :=
  if_pos h

theorem decodeVexBody_ok (h : illegalBeforeVex ps = false) {form : VexForm} {r : Bool} {vvvv : BitVec 4}
    (hregs : Vex.regsOk m ⟨ps, form, r, vvvv, 0#3, .reg 0#3⟩ = true) (l : Bool) (bs : List Byte) :
    decodeVexBody m ps form r 1#5 vvvv l 1#2 (0xEB#8 :: bs) =
      finishForm m ps bs fun reg rm => .instr (vexRow l ⟨ps, form, r, vvvv, reg, rm⟩) := by
  simp only [decodeVexBody, h, hregs]
  cases l <;> rfl

theorem decodeVex2_cons {p : Byte} (h : vexInMode m p = true) (bs : List Byte) :
    decodeVex2 m ps (p :: bs) =
      decodeVexBody m ps .two (!p.getLsbD 7) 1#5 (~~~(p.extractLsb' 3 4)) (p.getLsbD 2) (p.extractLsb' 0 2) bs :=
  if_pos h

theorem decodeVex3_cons {p0 : Byte} (h : vexInMode m p0 = true) (p1 : Byte) (bs : List Byte) :
    decodeVex3 m ps (p0 :: p1 :: bs) =
      decodeVexBody m ps (.three (!p0.getLsbD 6) (!p0.getLsbD 5) (p1.getLsbD 7)) (!p0.getLsbD 7)
        (p0.extractLsb' 0 5) (~~~(p1.extractLsb' 3 4)) (p1.getLsbD 2) (p1.extractLsb' 0 2) bs :=
  if_pos h

/-- The last payload byte of a VEX form: its top bit, then `vvvv` complemented, L, and `pp` = 01. -/
def vexLast (top : Bool) (vvvv : BitVec 4) (l : Bool) : Byte := BitVec.ofBool top ++ ~~~vvvv ++ BitVec.ofBool l ++ 1#2

/-- The first payload byte of a three-byte VEX form: R, X, B complemented, and map 1. -/
def vexFirst (r x b : Bool) : Byte := BitVec.ofBool (!r) ++ BitVec.ofBool (!x) ++ BitVec.ofBool (!b) ++ 1#5

theorem vexLast_fields (top : Bool) (vvvv : BitVec 4) (l : Bool) :
    (vexLast top vvvv l).getLsbD 7 = top ∧ ~~~((vexLast top vvvv l).extractLsb' 3 4) = vvvv ∧
      (vexLast top vvvv l).getLsbD 2 = l ∧ (vexLast top vvvv l).extractLsb' 0 2 = 1#2 ∧
      (vexLast top vvvv l).extractLsb' 6 2 = BitVec.ofBool top ++ BitVec.ofBool (!vvvv.getLsbD 3) := by
  revert top vvvv l
  decide

theorem vexFirst_fields (r x b : Bool) :
    (vexFirst r x b).getLsbD 7 = !r ∧ (vexFirst r x b).getLsbD 6 = !x ∧ (vexFirst r x b).getLsbD 5 = !b ∧
      (vexFirst r x b).extractLsb' 0 5 = 1#5 ∧
      (vexFirst r x b).extractLsb' 6 2 = BitVec.ofBool (!r) ++ BitVec.ofBool (!x) := by
  revert r x b
  decide

theorem Vex.bytes_two {e : Vex} (hform : e.form = .two) (l : Bool) (rest : List Byte) :
    e.bytes l ++ rest =
      prefixBytes e.prefixes ++ 0xC5#8 :: vexLast (!e.r) e.vvvv l :: 0xEB#8 :: (e.rm.bytes e.reg ++ rest) := by
  simp [Vex.bytes, Vex.payload, hform, vexLast]

theorem Vex.bytes_three {e : Vex} {x b w : Bool} (hform : e.form = .three x b w) (l : Bool) (rest : List Byte) :
    e.bytes l ++ rest =
      prefixBytes e.prefixes ++ 0xC4#8 :: vexFirst e.r x b :: vexLast w e.vvvv l :: 0xEB#8 ::
        (e.rm.bytes e.reg ++ rest) := by
  simp [Vex.bytes, Vex.payload, hform, vexLast, vexFirst]

/-! ### EVEX (R85 to R87) -/

/-- The fields that the three payload bytes of an EVEX form give (R85). -/
def evexOfBytes (ps : List LegacyPrefix) (p0 p1 p2 : Byte) (reg : BitVec 3) (rm : Rm) : Evex :=
  { prefixes := ps
    r := !p0.getLsbD 7
    x := !p0.getLsbD 6
    b := !p0.getLsbD 5
    r2 := !p0.getLsbD 4
    vvvv := ~~~(p1.extractLsb' 3 4)
    v2 := !p2.getLsbD 3
    z := p2.getLsbD 7
    bcast := p2.getLsbD 4
    aaa := p2.extractLsb' 0 3
    reg := reg
    rm := rm }

theorem Evex.bytes_append (w : Bool) (ll : BitVec 2) (e : Evex) (rest : List Byte) :
    e.bytes w ll ++ rest =
      prefixBytes e.prefixes ++ 0x62#8 :: e.p0 :: e.p1 w :: e.p2 ll :: 0xEB#8 :: (e.rm.bytes e.reg ++ rest) := by
  simp [Evex.bytes]

theorem encode_of_evexRow {w : Bool} {ll : BitVec 2} {e : Evex} {i : Instr} (h : evexRow w ll e = some i) :
    encode i = e.bytes w ll := by
  unfold evexRow at h
  split at h
  next hll => subst hll; cases h; cases w <;> rfl
  split at h
  next hll => subst hll; cases h; cases w <;> rfl
  split at h
  next hll => subst hll; cases h; cases w <;> rfl
  · cases h

theorem Evex.p0_fields (e : Evex) :
    e.p0.getLsbD 7 = !e.r ∧ e.p0.getLsbD 6 = !e.x ∧ e.p0.getLsbD 5 = !e.b ∧ e.p0.getLsbD 4 = !e.r2 ∧
      e.p0.extractLsb' 0 4 = 1#4 ∧ e.p0.extractLsb' 6 2 = BitVec.ofBool (!e.r) ++ BitVec.ofBool (!e.x) := by
  unfold Evex.p0
  generalize e.r = r, e.x = x, e.b = b, e.r2 = r2
  revert r x b r2
  decide

theorem Evex.p1_fields (w : Bool) (e : Evex) :
    (e.p1 w).getLsbD 7 = w ∧ ~~~((e.p1 w).extractLsb' 3 4) = e.vvvv ∧ (e.p1 w).extractLsb' 0 3 = 5#3 := by
  unfold Evex.p1
  generalize e.vvvv = vvvv
  revert w vvvv
  decide

theorem Evex.p2_fields (ll : BitVec 2) (e : Evex) :
    (e.p2 ll).getLsbD 7 = e.z ∧ (e.p2 ll).extractLsb' 5 2 = ll ∧ (e.p2 ll).getLsbD 4 = e.bcast ∧
      (e.p2 ll).getLsbD 3 = !e.v2 ∧ (e.p2 ll).extractLsb' 0 3 = e.aaa := by
  unfold Evex.p2
  generalize e.z = z, e.bcast = bcast, e.v2 = v2, e.aaa = aaa
  revert ll z bcast v2 aaa
  decide

theorem evexOfBytes_bytes (w : Bool) (ll : BitVec 2) (e : Evex) (reg : BitVec 3) (rm : Rm) :
    evexOfBytes e.prefixes e.p0 (e.p1 w) (e.p2 ll) reg rm = { e with reg := reg, rm := rm } := by
  obtain ⟨hr, hx, hb, hr2, -, -⟩ := e.p0_fields
  obtain ⟨-, hvvvv, -⟩ := e.p1_fields w
  obtain ⟨hz, -, hbcast, hv2, haaa⟩ := e.p2_fields ll
  simp only [evexOfBytes, hr, hx, hb, hr2, hvvvv, hz, hbcast, hv2, haaa, Bool.not_not]

theorem decodeEvex_cons {p0 : Byte} (h : vexInMode m p0 = true) (p1 p2 : Byte) (bs : List Byte) :
    decodeEvex m ps (p0 :: p1 :: p2 :: bs) = decodeEvexBody m ps p0 p1 p2 bs :=
  if_pos h

theorem decodeEvexBody_illegal (h : illegalBeforeVex ps = true) (p0 p1 p2 : Byte) (bs : List Byte) :
    decodeEvexBody m ps p0 p1 p2 bs = .ud :=
  if_pos h

theorem decodeEvexBody_reserved {p0 p1 : Byte} (h : p0.extractLsb' 2 2 ≠ 0#2 ∨ p1.getLsbD 2 = false) (p2 : Byte)
    (bs : List Byte) : decodeEvexBody m ps p0 p1 p2 bs = .ud := by
  simp only [decodeEvexBody, if_pos h, ite_self]

/-- The fixed bits of P0, which the decoder reads in two parts. -/
theorem evex_fixed_p0_iff (p : Byte) :
    p.extractLsb' 0 4 = 1#4 ↔ p.extractLsb' 2 2 = 0#2 ∧ p.extractLsb' 0 2 = 1#2 := by
  revert p
  decide

/-- The fixed bits of P1, which the decoder reads in two parts. -/
theorem evex_fixed_p1_iff (p : Byte) :
    p.extractLsb' 0 3 = 5#3 ↔ p.getLsbD 2 = true ∧ p.extractLsb' 0 2 = 1#2 := by
  revert p
  decide

/-- What the decoder does once the fixed bits and the opcode of rows 5 to 10 stand. -/
theorem decodeEvexBody_opcode (h : illegalBeforeVex ps = false) {p0 p1 : Byte} (hp0 : p0.extractLsb' 0 4 = 1#4)
    (hp1 : p1.extractLsb' 0 3 = 5#3) (p2 : Byte) (bs : List Byte) :
    decodeEvexBody m ps p0 p1 p2 (0xEB#8 :: bs) =
      if p2.extractLsb' 5 2 = 3#2 then .ud
      else if (evexOfBytes ps p0 p1 p2 0#3 (.reg 0#3)).zeroNoMask then .ud
      else if !(evexOfBytes ps p0 p1 p2 0#3 (.reg 0#3)).regsOk m then .refused .highRegister
      else finishForm m ps bs fun reg rm =>
        finishEvex (p1.getLsbD 7) (p2.extractLsb' 5 2) (evexOfBytes ps p0 p1 p2 reg rm) := by
  obtain ⟨hreserved0, hmap⟩ := (evex_fixed_p0_iff p0).1 hp0
  obtain ⟨hreserved1, hpp⟩ := (evex_fixed_p1_iff p1).1 hp1
  simp only [decodeEvexBody, h, hreserved0, hmap, hreserved1, hpp]
  rfl

end

end Sys2Proof
end

section
/-! The round trip from instructions to bytes (R70 to R91): the decoder reads back what the encoder writes, family by
family. -/

namespace Sys2Proof

section
variable {m : Mode}

/-! ### The parts of a well-formed form -/

theorem Legacy.wf_iff {sse : Bool} {e : Legacy} :
    e.wf sse m = true ↔ prefixGroupsDistinct e.prefixes = true ∧ e.prefixes.all LegacyPrefix.okBeforeLegacy = true ∧
      e.prefixes.contains .opSize = sse ∧ addr16Ok m e.prefixes = true ∧ rexOk m e.rex = true ∧ e.rm.wf = true := by
  simp only [Legacy.wf, Bool.and_eq_true, beq_iff_eq, and_assoc]

theorem Vex.wf_iff {e : Vex} :
    e.wf m = true ↔ prefixGroupsDistinct e.prefixes = true ∧ illegalBeforeVex e.prefixes = false ∧
      addr16Ok m e.prefixes = true ∧ e.regsOk m = true ∧ e.rm.wf = true := by
  simp only [Vex.wf, illegalBeforeVex, Bool.and_eq_true, Bool.not_eq_false', and_assoc]

theorem Evex.wf_iff {e : Evex} :
    e.wf m = true ↔ prefixGroupsDistinct e.prefixes = true ∧ illegalBeforeVex e.prefixes = false ∧
      addr16Ok m e.prefixes = true ∧ e.regsOk m = true ∧ e.zeroNoMask = false ∧ e.bcastReg = false ∧
      e.rm.wf = true := by
  simp only [Evex.wf, illegalBeforeVex, Bool.and_eq_true, Bool.not_eq_true', Bool.not_eq_false', and_assoc]

/-! ### The legacy family -/

theorem decodeLegacy_bytes {sse : Bool} {e : Legacy} (h : e.wf sse m = true) (rest : List Byte) :
    decodeLegacy m e.prefixes e.rex (0xEB#8 :: (e.rm.bytes e.reg ++ rest)) = .instr (legacyRow sse e) := by
  obtain ⟨-, hok, hsse, haddr, -, hrm⟩ := Legacy.wf_iff.1 h
  rw [decodeLegacy_ok hok, finishForm_bytes haddr _ _ hrm, hsse]

theorem decode_legacy_bytes {sse : Bool} {e : Legacy} (h : e.wf sse m = true) (rest : List Byte) :
    decode m (e.bytes ++ rest) = .instr (legacyRow sse e) := by
  obtain ⟨hps, -, -, -, hrexok, -⟩ := Legacy.wf_iff.1 h
  rw [← decodeLegacy_bytes h rest, Legacy.bytes_append]
  cases hrex : e.rex with
  | none => exact decode_legacy hps _
  | some r =>
    cases m with
    | m32 => rw [hrex] at hrexok; cases hrexok
    | m64 => exact decode_rex_legacy hps r _

/-! ### VEX -/

/-- In M32 the register bits that D24 asks to be 0 are what tells C5 and C4 from LDS and LES (R84). -/
theorem Vex.vexInMode_two {e : Vex} (h : e.regsOk m = true) (l : Bool) :
    vexInMode m (vexLast (!e.r) e.vvvv l) = true := by
  obtain ⟨-, -, -, -, htop⟩ := vexLast_fields (!e.r) e.vvvv l
  cases m with
  | m64 => rfl
  | m32 =>
    simp only [Vex.regsOk, Bool.and_eq_true, Bool.not_eq_true'] at h
    obtain ⟨⟨⟨hr, -⟩, -⟩, hv⟩ := h
    rw [vexInMode_iff, htop, hr, hv]
    exact .inr rfl

theorem Vex.vexInMode_three {e : Vex} {x b w : Bool} (hform : e.form = .three x b w) (h : e.regsOk m = true) :
    vexInMode m (vexFirst e.r x b) = true := by
  obtain ⟨-, -, -, -, htop⟩ := vexFirst_fields e.r x b
  cases m with
  | m64 => rfl
  | m32 =>
    simp only [Vex.regsOk, hform, VexForm.x, Bool.and_eq_true, Bool.not_eq_true'] at h
    obtain ⟨⟨⟨hr, hx⟩, -⟩, -⟩ := h
    rw [vexInMode_iff, htop, hr, hx]
    exact .inr rfl

theorem decodeVexBody_bytes {e : Vex} (h : e.wf m = true) (l : Bool) (rest : List Byte) :
    decodeVexBody m e.prefixes e.form e.r 1#5 e.vvvv l 1#2 (0xEB#8 :: (e.rm.bytes e.reg ++ rest)) =
      .instr (vexRow l e) := by
  obtain ⟨-, hok, haddr, hregs, hrm⟩ := Vex.wf_iff.1 h
  rw [decodeVexBody_ok hok (hregs : Vex.regsOk m ⟨e.prefixes, e.form, e.r, e.vvvv, 0#3, .reg 0#3⟩ = true),
    finishForm_bytes haddr _ _ hrm]

theorem decode_vex_bytes {e : Vex} (h : e.wf m = true) (l : Bool) (rest : List Byte) :
    decode m (e.bytes l ++ rest) = .instr (vexRow l e) := by
  obtain ⟨hps, -, -, hregs, -⟩ := Vex.wf_iff.1 h
  rw [← decodeVexBody_bytes h l rest]
  cases hform : e.form with
  | two =>
    obtain ⟨hr, hvvvv, hl, hpp, -⟩ := vexLast_fields (!e.r) e.vvvv l
    rw [Vex.bytes_two hform, decode_vex2 hps, decodeVex2_cons (Vex.vexInMode_two hregs l),
      hr, hvvvv, hl, hpp, Bool.not_not]
  | three x b w =>
    obtain ⟨hr, hx, hb, hmap, -⟩ := vexFirst_fields e.r x b
    obtain ⟨hw, hvvvv, hl, hpp, -⟩ := vexLast_fields w e.vvvv l
    rw [Vex.bytes_three hform, decode_vex3 hps, decodeVex3_cons (Vex.vexInMode_three hform hregs),
      hr, hx, hb, hmap, hw, hvvvv, hl, hpp, Bool.not_not, Bool.not_not, Bool.not_not]

/-! ### EVEX -/

/-- In M32 the register bits that D24 asks to be 0 are what tells 62 from BOUND (R87). -/
theorem Evex.vexInMode_p0 {e : Evex} (h : e.regsOk m = true) : vexInMode m e.p0 = true := by
  obtain ⟨-, -, -, -, -, htop⟩ := e.p0_fields
  cases m with
  | m64 => rfl
  | m32 =>
    simp only [Evex.regsOk, Bool.and_eq_true, Bool.not_eq_true'] at h
    obtain ⟨⟨⟨⟨⟨hr, hx⟩, -⟩, -⟩, -⟩, -⟩ := h
    rw [vexInMode_iff, htop, hr, hx]
    exact .inr rfl

theorem decodeEvexBody_bytes {e : Evex} (h : e.wf m = true) {w : Bool} {ll : BitVec 2} {i : Instr}
    (hrow : evexRow w ll e = some i) (rest : List Byte) :
    decodeEvexBody m e.prefixes e.p0 (e.p1 w) (e.p2 ll) (0xEB#8 :: (e.rm.bytes e.reg ++ rest)) = .instr i := by
  obtain ⟨-, hok, haddr, hregs, hzero, hbcast, hrm⟩ := Evex.wf_iff.1 h
  obtain ⟨-, -, -, -, hp0, -⟩ := e.p0_fields
  obtain ⟨hw, -, hp1⟩ := e.p1_fields w
  obtain ⟨-, hll, -⟩ := e.p2_fields ll
  have hll3 : ll ≠ 3#2 := by
    rintro rfl
    cases hrow
  have hzero' : ({ e with reg := 0#3, rm := .reg 0#3 } : Evex).zeroNoMask = false := hzero
  have hregs' : ({ e with reg := 0#3, rm := .reg 0#3 } : Evex).regsOk m = true := hregs
  simp only [decodeEvexBody_opcode hok hp0 hp1, evexOfBytes_bytes, hll, if_neg hll3, hzero', hregs',
    finishForm_bytes haddr _ _ hrm, hw, finishEvex, hbcast, hrow, Bool.not_true, Bool.false_eq_true, if_false]

theorem decode_evex_bytes {e : Evex} (h : e.wf m = true) {w : Bool} {ll : BitVec 2} {i : Instr}
    (hrow : evexRow w ll e = some i) (rest : List Byte) : decode m (e.bytes w ll ++ rest) = .instr i := by
  obtain ⟨hps, -, -, hregs, -⟩ := Evex.wf_iff.1 h
  rw [Evex.bytes_append, decode_evex hps, decodeEvex_cons (Evex.vexInMode_p0 hregs), decodeEvexBody_bytes h hrow]

end

/-- Settles O1, by the family of the instruction. -/
theorem decodeOfEncode : Obligations.DecodeOfEncode := by
  intro m i rest h
  cases i with
  | porMm e => exact decode_legacy_bytes h rest
  | porXmm e => exact decode_legacy_bytes h rest
  | vporXmm e => exact decode_vex_bytes h false rest
  | vporYmm e => exact decode_vex_bytes h true rest
  | vpordXmm e | vpordYmm e | vpordZmm e | vporqXmm e | vporqYmm e | vporqZmm e => exact decode_evex_bytes h rfl rest

end Sys2Proof
end

section
/-! The round trip from bytes to instructions (R70 to R91): what each stage of the decoder takes off is what the encoder
writes for its answer. -/

namespace Sys2Proof

/-! ### Bytes from their fields -/

theorem modRMByte_of_fields (b : Byte) : modRMByte (b.extractLsb' 6 2) (b.extractLsb' 3 3) (b.extractLsb' 0 3) = b := by
  revert b
  decide

theorem sibByte_of_fields (b : Byte) : sibByte (b.extractLsb' 6 2) (b.extractLsb' 3 3) (b.extractLsb' 0 3) = b :=
  modRMByte_of_fields b

theorem vexLast_of_fields {p : Byte} (hpp : p.extractLsb' 0 2 = 1#2) :
    vexLast (p.getLsbD 7) (~~~(p.extractLsb' 3 4)) (p.getLsbD 2) = p := by
  revert p
  decide

theorem vexFirst_of_fields {p : Byte} (hmap : p.extractLsb' 0 5 = 1#5) :
    vexFirst (!p.getLsbD 7) (!p.getLsbD 6) (!p.getLsbD 5) = p := by
  revert p
  decide

section
variable (ps : List LegacyPrefix) {p0 p1 : Byte} (p2 : Byte) (reg : BitVec 3) (rm : Rm)

theorem evexOfBytes_p0 (h : p0.extractLsb' 0 4 = 1#4) : (evexOfBytes ps p0 p1 p2 reg rm).p0 = p0 := by
  simp only [evexOfBytes, Evex.p0]
  revert p0
  decide

theorem evexOfBytes_p1 (h : p1.extractLsb' 0 3 = 5#3) :
    (evexOfBytes ps p0 p1 p2 reg rm).p1 (p1.getLsbD 7) = p1 := by
  simp only [evexOfBytes, Evex.p1]
  revert p1
  decide

theorem evexOfBytes_p2 : (evexOfBytes ps p0 p1 p2 reg rm).p2 (p2.extractLsb' 5 2) = p2 := by
  simp only [evexOfBytes, Evex.p2]
  revert p2
  decide

end

/-! ### ModRM, SIB and displacement -/

theorem readDisp32_some {bs rest : List Byte} {d : BitVec 32} (h : readDisp32 bs = some (d, rest)) :
    bs = le32Bytes d ++ rest := by
  unfold readDisp32 at h
  split at h
  · cases h
    rw [le32Bytes_le32]
    rfl
  · cases h

theorem readDisp_some {mod : BitVec 2} {bs rest : List Byte} {d : Disp} (hmod : mod ≠ 3#2)
    (h : readDisp mod bs = some (d, rest)) : d.mod = mod ∧ bs = d.bytes ++ rest := by
  have mod_cases : ∀ v : BitVec 2, v ≠ 3#2 → v ≠ 0#2 → v ≠ 1#2 → v = 2#2 := by decide
  unfold readDisp at h
  split at h
  next h0 => cases h; exact ⟨h0.symm, rfl⟩
  next h0 =>
    split at h
    next h1 =>
      split at h
      · cases h; exact ⟨h1.symm, rfl⟩
      · cases h
    next h1 =>
      split at h
      · cases h
        refine ⟨(mod_cases mod hmod h0 h1).symm, ?_⟩
        rw [Disp.bytes, le32Bytes_le32]
        rfl
      · cases h

theorem readSib_some {mod : BitVec 2} {bs rest : List Byte} {rm : Rm} (hmod : mod ≠ 3#2)
    (h : readSib mod bs = some (rm, rest)) (reg : BitVec 3) :
    modRMByte mod reg 4#3 :: bs = rm.bytes reg ++ rest := by
  cases bs with
  | nil => cases h
  | cons s bs =>
    have hs := sibByte_of_fields s
    simp only [readSib] at h
    split at h
    next hbase =>
      obtain ⟨⟨d, t⟩, hd, heq⟩ := Option.map_eq_some_iff.1 h
      cases heq
      obtain ⟨hbase, rfl⟩ := hbase
      rw [hbase] at hs
      rw [Rm.bytes, hs, readDisp32_some hd]
      rfl
    · obtain ⟨⟨d, t⟩, hd, heq⟩ := Option.map_eq_some_iff.1 h
      cases heq
      obtain ⟨rfl, rfl⟩ := readDisp_some hmod hd
      rw [Rm.bytes, hs]
      rfl

theorem readModRM_some {bs rest : List Byte} {reg : BitVec 3} {rm : Rm} (h : readModRM bs = some (reg, rm, rest)) :
    bs = rm.bytes reg ++ rest := by
  cases bs with
  | nil => cases h
  | cons b bs =>
    have hb := modRMByte_of_fields b
    simp only [readModRM] at h
    split at h
    next hmod =>
      cases h
      rw [hmod] at hb
      rw [Rm.bytes, hb]
      rfl
    next hmod =>
      split at h
      next hrm =>
        obtain ⟨⟨r, t⟩, hsib, heq⟩ := Option.map_eq_some_iff.1 h
        cases heq
        rw [hrm] at hb
        rw [← readSib_some hmod hsib, hb]
      split at h
      next hrm =>
        obtain ⟨⟨d, t⟩, hd, heq⟩ := Option.map_eq_some_iff.1 h
        cases heq
        obtain ⟨hrm, hmod0⟩ := hrm
        rw [hrm, hmod0] at hb
        rw [Rm.bytes, hb, readDisp32_some hd]
        rfl
      · obtain ⟨⟨d, t⟩, hd, heq⟩ := Option.map_eq_some_iff.1 h
        cases heq
        obtain ⟨hdmod, rfl⟩ := readDisp_some hmod hd
        rw [Rm.bytes, hdmod, hb]
        rfl

theorem finishForm_instr_bytes {m : Mode} {ps : List LegacyPrefix} {bs : List Byte}
    {build : BitVec 3 → Rm → Decoded} {i : Instr} (h : finishForm m ps bs build = .instr i) :
    ∃ reg rm rest, bs = rm.bytes reg ++ rest ∧ build reg rm = .instr i := by
  unfold finishForm at h
  split at h
  · split at h
    · cases h
    next reg rm rest hread => exact ⟨reg, rm, rest, readModRM_some hread, h⟩
  · cases h

/-! ### The families -/

section
variable {m : Mode} {ps : List LegacyPrefix} {i : Instr}

theorem decodeLegacy_instr_bytes {rex : Option Rex} {bs : List Byte} (h : decodeLegacy m ps rex bs = .instr i) :
    ∃ rest, prefixBytes ps ++ ((rex.map Rex.byte).toList ++ 0x0F#8 :: bs) = encode i ++ rest := by
  cases bs with
  | nil => cases h
  | cons b bs =>
    simp only [decodeLegacy] at h
    split at h
    · cases h
    next hop =>
      split at h
      · cases h
      split at h
      · cases h
      obtain ⟨reg, rm, rest, rfl, hi⟩ := finishForm_instr_bytes h
      have hrow : legacyRow (ps.contains .opSize) ⟨ps, rex, reg, rm⟩ = i := by
        split at hi
        next hsse => cases hi; rw [legacyRow, if_pos hsse]
        next hsse => cases hi; rw [legacyRow, if_neg hsse]
      refine ⟨rest, ?_⟩
      rw [← hrow, encode_legacyRow, Legacy.bytes_append, Decidable.not_not.1 hop]

theorem decodeVexBody_instr_bytes {form : VexForm} {r l : Bool} {map : BitVec 5} {vvvv : BitVec 4} {pp : BitVec 2}
    {bs : List Byte} (h : decodeVexBody m ps form r map vvvv l pp bs = .instr i) :
    map = 1#5 ∧ pp = 1#2 ∧ ∃ reg rm rest, bs = 0xEB#8 :: (rm.bytes reg ++ rest) ∧
      encode i = Vex.bytes l ⟨ps, form, r, vvvv, reg, rm⟩ := by
  unfold decodeVexBody at h
  split at h
  · cases h
  split at h
  · cases h
  next hfixed =>
    obtain ⟨hmap, hpp⟩ : map = 1#5 ∧ pp = 1#2 := by simpa only [not_or, ne_eq, not_not] using hfixed
    cases bs with
    | nil => cases h
    | cons b bs =>
      simp only at h
      split at h
      · cases h
      next hop =>
        split at h
        · cases h
        obtain ⟨reg, rm, rest, rfl, hi⟩ := finishForm_instr_bytes h
        refine ⟨hmap, hpp, reg, rm, rest, by rw [Decidable.not_not.1 hop], ?_⟩
        rw [← encode_vexRow]
        cases l <;> (cases hi; rfl)

theorem decodeVex2_instr_bytes {bs : List Byte} (h : decodeVex2 m ps bs = .instr i) :
    ∃ rest, prefixBytes ps ++ 0xC5#8 :: bs = encode i ++ rest := by
  unfold decodeVex2 at h
  split at h
  next p bs =>
    split at h
    · obtain ⟨-, hpp, reg, rm, rest, rfl, hi⟩ := decodeVexBody_instr_bytes h
      exact ⟨rest, by rw [hi, Vex.bytes_two rfl, Bool.not_not, vexLast_of_fields hpp]⟩
    · cases h
  · cases h

theorem decodeVex3_instr_bytes {bs : List Byte} (h : decodeVex3 m ps bs = .instr i) :
    ∃ rest, prefixBytes ps ++ 0xC4#8 :: bs = encode i ++ rest := by
  unfold decodeVex3 at h
  split at h
  next p0 bs =>
    split at h
    · split at h
      next p1 bs =>
        obtain ⟨hmap, hpp, reg, rm, rest, rfl, hi⟩ := decodeVexBody_instr_bytes h
        exact ⟨rest, by rw [hi, Vex.bytes_three rfl, vexFirst_of_fields hmap, vexLast_of_fields hpp]⟩
      · cases h
    · cases h
  · cases h

theorem decodeEvexBody_instr_bytes {p0 p1 p2 : Byte} {bs : List Byte}
    (h : decodeEvexBody m ps p0 p1 p2 bs = .instr i) :
    ∃ rest, prefixBytes ps ++ 0x62#8 :: p0 :: p1 :: p2 :: bs = encode i ++ rest := by
  unfold decodeEvexBody at h
  simp only at h
  split at h
  · cases h
  split at h
  · cases h
  next hreserved =>
    split at h
    · cases h
    next hfixed =>
      simp only [not_or, ne_eq, not_not, Bool.not_eq_false] at hreserved hfixed
      cases bs with
      | nil => cases h
      | cons b bs =>
        simp only at h
        split at h
        · cases h
        next hop =>
          split at h
          · cases h
          split at h
          · cases h
          split at h
          · cases h
          obtain ⟨reg, rm, rest, rfl, hi⟩ := finishForm_instr_bytes h
          obtain ⟨-, hrow⟩ := finishEvex_instr hi
          have hi : encode i = (evexOfBytes ps p0 p1 p2 reg rm).bytes (p1.getLsbD 7) (p2.extractLsb' 5 2) :=
            encode_of_evexRow hrow
          have hp0 := (evex_fixed_p0_iff p0).2 ⟨hreserved.1, hfixed.1⟩
          have hp1 := (evex_fixed_p1_iff p1).2 ⟨hreserved.2, hfixed.2⟩
          refine ⟨rest, ?_⟩
          rw [hi, Evex.bytes_append, evexOfBytes_p0 ps p2 reg rm hp0, evexOfBytes_p1 ps p2 reg rm hp1, evexOfBytes_p2,
            Decidable.not_not.1 hop]
          rfl

theorem decodeEvex_instr_bytes {bs : List Byte} (h : decodeEvex m ps bs = .instr i) :
    ∃ rest, prefixBytes ps ++ 0x62#8 :: bs = encode i ++ rest := by
  unfold decodeEvex at h
  split at h
  · split at h
    · split at h
      · exact decodeEvexBody_instr_bytes h
      · cases h
    · cases h
  · cases h

theorem decodeVexFamily_instr_bytes {b : Byte} {bs : List Byte} (h : decodeVexFamily m ps b bs = some (.instr i)) :
    ∃ rest, prefixBytes ps ++ b :: bs = encode i ++ rest := by
  unfold decodeVexFamily at h
  split at h
  next hb => subst hb; exact decodeVex2_instr_bytes (Option.some.inj h)
  split at h
  next hb => subst hb; exact decodeVex3_instr_bytes (Option.some.inj h)
  split at h
  next hb => subst hb; exact decodeEvex_instr_bytes (Option.some.inj h)
  · cases h

/-! ### The procedure -/

theorem decodeAfterRex_instr_bytes {rex : Rex} {bs : List Byte} (h : decodeAfterRex m ps rex bs = .instr i) :
    ∃ rest, prefixBytes ps ++ rex.byte :: bs = encode i ++ rest := by
  unfold decodeAfterRex at h
  split at h
  · cases h
  · split at h
    next h0F => subst h0F; exact decodeLegacy_instr_bytes h
    · split at h <;> cases h

theorem decode_instr_bytes {bs : List Byte} (h : decode m bs = .instr i) : ∃ rest, bs = encode i ++ rest := by
  rw [← prefixBytes_takePrefixes bs]
  simp only [decode] at h
  split at h
  · split at h
    · cases h
    next b0 bs' htail =>
      rw [htail]
      split at h
      next hrex =>
        rw [← Rex.byte_rexOfByte hrex.2]
        exact decodeAfterRex_instr_bytes h
      split at h
      next h0F => subst h0F; exact decodeLegacy_instr_bytes h
      · cases hvex : decodeVexFamily m (takePrefixes bs).1 b0 bs' with
        | none => rw [hvex] at h; cases h
        | some d =>
          rw [hvex] at h
          exact decodeVexFamily_instr_bytes (hvex.trans (congrArg some h))
  · cases h

end

/-- Settles O2. -/
theorem decodedBytesAreTheEncoding : Obligations.DecodedBytesAreTheEncoding :=
  fun _ _ _ h => ⟨decode_wf h, decode_instr_bytes h⟩

end Sys2Proof
end

section
/-! The length of an encoding (R90): its shortest values, and its bound from the groups of legacy bytes (R72). -/

namespace Sys2Proof

/-! ### Legacy bytes -/

theorem prefixGroupsDistinct_iff_nodup (ps : List LegacyPrefix) :
    prefixGroupsDistinct ps = true ↔ (ps.map LegacyPrefix.group).Nodup := by
  induction ps with
  | nil => simp [prefixGroupsDistinct]
  | cons p ps ih => simp [prefixGroupsDistinct, ih]

/-- Prefixes of distinct groups are no more than the groups they come from. -/
theorem length_le_of_group_lt {ps : List LegacyPrefix} {n : Nat} (hps : prefixGroupsDistinct ps = true)
    (h : ∀ p ∈ ps, p.group < n) : ps.length ≤ n := by
  have hsub : ps.map LegacyPrefix.group ⊆ List.range n := by
    intro g hg
    obtain ⟨p, hp, rfl⟩ := List.mem_map.1 hg
    exact List.mem_range.2 (h p hp)
  simpa using (((prefixGroupsDistinct_iff_nodup ps).1 hps).subperm hsub).length_le

theorem LegacyPrefix.group_lt_of_okBeforeLegacy {p : LegacyPrefix} (h : p.okBeforeLegacy = true) : p.group < 3 := by
  cases p with
  | seg _ | addrSize | opSize => simp [LegacyPrefix.group]
  | repne | rep | lock => cases h

theorem LegacyPrefix.group_lt_of_okBeforeVex {p : LegacyPrefix} (h : p.okBeforeVex = true) : p.group < 2 := by
  cases p with
  | seg _ | addrSize => simp [LegacyPrefix.group]
  | opSize | repne | rep | lock => cases h

theorem length_le_of_not_illegalBeforeVex {ps : List LegacyPrefix} (hps : prefixGroupsDistinct ps = true)
    (h : illegalBeforeVex ps = false) : ps.length ≤ 2 := by
  rw [illegalBeforeVex, Bool.not_eq_false', List.all_eq_true] at h
  exact length_le_of_group_lt hps fun p hp => LegacyPrefix.group_lt_of_okBeforeVex (h p hp)

/-! ### The families -/

theorem Rm.len_bounds (rm : Rm) : 1 ≤ rm.len ∧ rm.len ≤ 6 := by
  have hdisp (d : Disp) : d.len ≤ 4 := by cases d <;> simp [Disp.len]
  cases rm with
  | reg _ | dispOnly _ | sibNoBase _ _ _ => simp [Rm.len]
  | base _ d | sib _ _ _ d =>
    have := hdisp d
    simp only [Rm.len]
    omega

section
variable {m : Mode}

theorem Legacy.len_bounds {sse : Bool} {e : Legacy} (h : e.wf sse m = true) :
    3 + sse.toNat ≤ e.len ∧ e.len ≤ 12 := by
  obtain ⟨hps, hok, hsse, -, -, -⟩ := Legacy.wf_iff.1 h
  have hmax : e.prefixes.length ≤ 3 :=
    length_le_of_group_lt hps fun p hp => LegacyPrefix.group_lt_of_okBeforeLegacy (List.all_eq_true.1 hok p hp)
  have hmin : sse.toNat ≤ e.prefixes.length := by
    cases sse with
    | false => exact Nat.zero_le _
    | true => exact List.length_pos_of_mem (by simpa using hsse)
  have hrex : (if e.rex.isSome then 1 else 0) ≤ 1 := by split <;> decide
  have := e.rm.len_bounds
  unfold Legacy.len
  omega

theorem Vex.len_bounds {e : Vex} (h : e.wf m = true) : 4 ≤ e.len ∧ e.len ≤ 12 := by
  obtain ⟨hps, hok, -⟩ := Vex.wf_iff.1 h
  have hmax := length_le_of_not_illegalBeforeVex hps hok
  have hform : 2 ≤ e.form.len ∧ e.form.len ≤ 3 := by cases e.form <;> simp [VexForm.len]
  have := e.rm.len_bounds
  unfold Vex.len
  omega

theorem Evex.len_bounds {e : Evex} (h : e.wf m = true) : 6 ≤ e.len ∧ e.len ≤ 13 := by
  obtain ⟨hps, hok, -⟩ := Evex.wf_iff.1 h
  have hmax := length_le_of_not_illegalBeforeVex hps hok
  have := e.rm.len_bounds
  unfold Evex.len
  omega

end

theorem length_encode (i : Instr) : (encode i).length = i.len := by
  cases i with
  | porMm e | porXmm e => exact e.length_bytes
  | vporXmm e | vporYmm e => exact e.length_bytes _
  | vpordXmm e | vpordYmm e | vpordZmm e | vporqXmm e | vporqYmm e | vporqZmm e => exact e.length_bytes _ _

/-- Settles O3, by the family of the instruction. -/
theorem encodingLengthBounds : Obligations.EncodingLengthBounds := by
  intro m i h
  refine ⟨length_encode i, ?_⟩
  cases i with
  | porMm e | porXmm e =>
    obtain ⟨hmin, hmax⟩ := Legacy.len_bounds h
    exact ⟨hmin, hmax.trans (by decide)⟩
  | vporXmm e | vporYmm e =>
    obtain ⟨hmin, hmax⟩ := Vex.len_bounds h
    exact ⟨hmin, hmax.trans (by decide)⟩
  | vpordXmm e | vpordYmm e | vpordZmm e | vporqXmm e | vporqYmm e | vporqZmm e => exact Evex.len_bounds h

end Sys2Proof
end

section
/-! Bytes that decode to no instruction: #UD and the refusals of R91 and R92. -/

namespace Sys2Proof

/-- Settles O5. -/
theorem lockBeforeLegacyIsUd : Obligations.LockBeforeLegacyIsUd := by
  intro m ps rest hps
  refine ⟨fun hlock => ⟨?_, fun r => ?_⟩, fun hlock hrep => ⟨?_, fun r => ?_⟩⟩
  · rw [decode_legacy hps, decodeLegacy_lock hlock]
  · rw [decode_rex_legacy hps, decodeLegacy_lock hlock]
  · rw [decode_legacy hps, decodeLegacy_rep hlock hrep]
  · rw [decode_rex_legacy hps, decodeLegacy_rep hlock hrep]

/-- Settles O6. -/
theorem badPrefixBeforeVexIsUd : Obligations.BadPrefixBeforeVexIsUd := by
  intro m ps p0 p1 p2 rest hps hbad hp0
  have hbad := (illegalBeforeVex_iff ps).2 hbad
  have hmode := (vexInMode_iff m p0).2 hp0
  refine ⟨?_, ?_, ?_⟩
  · rw [decode_vex2 hps, decodeVex2_cons hmode, decodeVexBody_illegal hbad]
  · rw [decode_vex3 hps, decodeVex3_cons hmode, decodeVexBody_illegal hbad]
  · rw [decode_evex hps, decodeEvex_cons hmode, decodeEvexBody_illegal hbad]

/-- After a REX byte, bytes that decode to an instruction of rows 3 to 10 give #UD (R91 step 2). -/
theorem decodeAfterRex_vexFamily {m : Mode} {b : Byte} {bs : List Byte} {i : Instr}
    (hb : b = 0xC5#8 ∨ b = 0xC4#8 ∨ b = 0x62#8) (h : decode m (b :: bs) = .instr i) (ps : List LegacyPrefix) (r : Rex) :
    decodeAfterRex m ps r (b :: bs) = .ud := by
  have h0F : b ≠ 0x0F#8 := by rcases hb with rfl | rfl | rfl <;> decide
  have hfamily : decodeVexFamily m [] b bs = some (.instr i) :=
    (decode_vexFamily rfl bs hb).trans (congrArg some h)
  simp only [decodeAfterRex, if_neg h0F, hfamily]

/-- Settles O7: by O1 the bytes after REX decode, without it, to the instruction they encode. -/
theorem rexBeforeVexIsUd : Obligations.RexBeforeVexIsUd := by
  intro ps r i rest hps hwf hhead
  have hdecode := decodeOfEncode .m64 i rest hwf
  rw [decode_rex hps]
  cases hbytes : encode i with
  | nil => simp [hbytes] at hhead
  | cons b bs =>
    rw [hbytes] at hhead hdecode
    simp only [List.head?_cons, Option.some.injEq] at hhead
    exact decodeAfterRex_vexFamily hhead hdecode ps r

theorem decode_evex_noPrefix {m : Mode} {p0 : Byte} (h : m = .m64 ∨ p0.extractLsb' 6 2 = 3#2) (p1 p2 : Byte)
    (bs : List Byte) : decode m (0x62#8 :: p0 :: p1 :: p2 :: bs) = decodeEvexBody m [] p0 p1 p2 bs :=
  (decode_evex (ps := []) rfl _).trans (decodeEvex_cons ((vexInMode_iff m p0).2 h) p1 p2 bs)

theorem evexOfBytes_zeroNoMask_iff (ps : List LegacyPrefix) (p0 p1 p2 : Byte) (reg : BitVec 3) (rm : Rm) :
    (evexOfBytes ps p0 p1 p2 reg rm).zeroNoMask = true ↔ p2.getLsbD 7 = true ∧ p2.extractLsb' 0 3 = 0#3 := by
  simp only [Evex.zeroNoMask, evexOfBytes, Bool.and_eq_true, beq_iff_eq]

/-- Settles O8. -/
theorem reservedEvexIsUd : Obligations.ReservedEvexIsUd := by
  intro m p0 p1 p2 rest hmode
  refine ⟨fun hreserved => ?_, fun hp0 hp1 hreserved => ?_⟩
  · rw [decode_evex_noPrefix hmode, decodeEvexBody_reserved hreserved]
  · rw [decode_evex_noPrefix hmode, decodeEvexBody_opcode rfl hp0 hp1]
    obtain hll | hzero := hreserved
    · rw [if_pos hll]
    · rw [if_pos ((evexOfBytes_zeroNoMask_iff ..).2 hzero), ite_self]

theorem Rm.reg_bytes_of_mod {modrm : Byte} (h : modrm.extractLsb' 6 2 = 3#2) :
    (Rm.reg (modrm.extractLsb' 0 3)).bytes (modrm.extractLsb' 3 3) = [modrm] := by
  have hbyte := modRMByte_of_fields modrm
  rw [h] at hbyte
  rw [Rm.bytes, hbyte]

/-- Settles O9. -/
theorem broadcastRegisterIsRefused : Obligations.BroadcastRegisterIsRefused := by
  intro p0 p1 p2 modrm rest hp0 hp1 hll hmask hb hmod
  have hzero : ¬ (evexOfBytes [] p0 p1 p2 0#3 (.reg 0#3)).zeroNoMask = true := by
    rw [evexOfBytes_zeroNoMask_iff, not_and_or, Bool.not_eq_true]
    exact hmask
  have hregs : ¬ (!(evexOfBytes [] p0 p1 p2 0#3 (.reg 0#3)).regsOk .m64) = true := Bool.false_ne_true
  have hbcast (reg rm : BitVec 3) : (evexOfBytes [] p0 p1 p2 reg (.reg rm)).bcastReg = true := by
    simpa only [Evex.bcastReg, evexOfBytes, Bool.and_eq_true] using ⟨hb, rfl⟩
  have hread := finishForm_bytes (m := .m64) (ps := []) rfl
    (fun reg rm => finishEvex (p1.getLsbD 7) (p2.extractLsb' 5 2) (evexOfBytes [] p0 p1 p2 reg rm))
    (modrm.extractLsb' 3 3) (rm := .reg (modrm.extractLsb' 0 3)) rfl rest
  rw [Rm.reg_bytes_of_mod hmod] at hread
  rw [decode_evex_noPrefix (.inl rfl), decodeEvexBody_opcode rfl hp0 hp1, if_neg hll, if_neg hzero, if_neg hregs]
  exact hread.trans (if_pos (hbcast _ _))

end Sys2Proof
end

section
/-! Sample words of the spec (R73 to R87), register numbers (R77, R87), the encoding bits that no instruction reads (R74, R84),
and what a step makes of the decoder's answer (R91, R94, R186). -/

namespace Sys2Proof

/-- Settles O4, word by word. -/
theorem sampleWordsDecode : Obligations.SampleWordsDecode := by
  refine ⟨?_, ?_, ?_, ?_, ?_, ?_⟩ <;> decide

/-! ### Register numbers -/

theorem vecNum_toNat (x b : Bool) (r : BitVec 3) :
    (vecNum x b r).toNat = 16 * x.toNat + 8 * b.toNat + r.toNat := by
  revert x b r
  decide

theorem vvvvNum_toNat (hi : Bool) (v : BitVec 4) : (vvvvNum hi v).toNat = 16 * hi.toNat + v.toNat := by
  revert hi v
  decide

/-- Settles O54. -/
theorem registerNumbers : Obligations.RegisterNumbers := by
  have low (b : Bool) (r : BitVec 3) : (vecNum false b r).toNat = 8 * b.toNat + r.toNat := by
    simpa using vecNum_toNat false b r
  have lowSrc1 (v : BitVec 4) : (vvvvNum false v).toNat = v.toNat := by
    simpa using vvvvNum_toNat false v
  exact ⟨fun _ => low .., fun _ => ⟨low .., lowSrc1 _⟩, fun _ => ⟨vecNum_toNat .., vvvvNum_toNat ..⟩, vecNum_toNat⟩

namespace Machine

/-! ### Bits that no instruction reads -/

/-- Settles O10: W is no part of the length, of the extension bits or of the registers of a VEX form. -/
theorem vexWIsIgnored : Obligations.VexWIsIgnored :=
  fun _ _ _ _ => ⟨rfl, rfl⟩

/-- With a register source the meaning of row 1 needs the bits of REX in nothing but the length, which is the same for every
REX byte (R74, R90). -/
theorem execPorMm_reg {e : Legacy} {r : BitVec 3} (h : e.rm = .reg r) (s : State) :
    execPorMm e s = runForm s s.checkMmx (.ok (s.mmAt r)) fun src =>
      ((s.setMm e.reg (s.mmAt e.reg ||| src)).mmxToX87 e.reg).advance e.len := by
  simp only [execPorMm, Legacy.mmSource, h, Rm.asReg, Legacy.mmDest]

/-- Settles O36. -/
theorem mmxIgnoresRexBits : Obligations.MmxIgnoresRexBits := by
  intro e a b r s h
  have hexec (x : Rex) := execPorMm_reg (e := { e with rex := some x }) h s
  exact (hexec a).trans (hexec b).symm

/-! ### A step -/

theorem decode_nil (m : Mode) : decode m [] = .refused .truncated := rfl

section
variable {s : State}

theorem fetchBytes_inText (hbase : s.text.base.toNat ≤ s.pc.toNat)
    (hend : s.pc.toNat < s.text.base.toNat + s.text.bytes.length) : s.fetchBytes = .ok (Claims.bytesAtPc s) :=
  if_pos ⟨hbase, hend⟩

theorem fetchBytes_ended (h : RunEnded s) : s.fetchBytes = .error .endOfText := by
  have h : s.pc.toNat = s.text.base.toNat + s.text.bytes.length := h
  rw [State.fetchBytes, if_neg (by omega), if_pos h]

theorem fetchBytes_outside
    (h : s.pc.toNat < s.text.base.toNat ∨ s.text.base.toNat + s.text.bytes.length < s.pc.toNat) :
    s.fetchBytes = .error .fetchOutsideText := by
  rw [State.fetchBytes, if_neg (by omega), if_neg (by omega)]

/-- Bytes that decode to anything but missing bytes are there, so `pc` is before the end of the text. -/
theorem pc_lt_end_of_decode (hbase : s.text.base.toNat ≤ s.pc.toNat)
    (h : decode s.mode (Claims.bytesAtPc s) ≠ .refused .truncated) :
    s.pc.toNat < s.text.base.toNat + s.text.bytes.length := by
  by_contra hend
  have hnil : Claims.bytesAtPc s = [] := List.drop_eq_nil_of_le (by omega)
  exact h (by rw [hnil, decode_nil])

theorem step_of_instr {bs : List Byte} {i : Instr} (hfetch : s.fetchBytes = .ok bs)
    (h : decode s.mode bs = .instr i) : step s = exec i s := by
  simp only [step, hfetch, h]

theorem step_of_ud {bs : List Byte} (hfetch : s.fetchBytes = .ok bs) (h : decode s.mode bs = .ud) :
    step s = .fault (.invalidOpcode s.pc) := by
  simp only [step, hfetch, h, takeException]

theorem step_of_decode_refused {bs : List Byte} {why : DecodeRefusal} (hfetch : s.fetchBytes = .ok bs)
    (h : decode s.mode bs = .refused why) : step s = .refused (.decode why) := by
  simp only [step, hfetch, h]

theorem step_of_fetch_error {r : Refusal} (h : s.fetchBytes = .error r) : step s = .refused r := by
  simp only [step, h]

end

/-- Settles O11. -/
theorem stepRunsDecoded : Obligations.StepRunsDecoded := by
  intro s i hbase hdecode
  have hend := pc_lt_end_of_decode hbase (by rw [hdecode]; nofun)
  exact step_of_instr (fetchBytes_inText hbase hend) hdecode

/-- Settles O12. -/
theorem stepStopsAsDecoded : Obligations.StepStopsAsDecoded := by
  refine fun s => ⟨fun hbase hdecode => ?_, fun why hbase hend hdecode => ?_,
    fun h => step_of_fetch_error (fetchBytes_ended h), fun h => step_of_fetch_error (fetchBytes_outside h)⟩
  · have hend := pc_lt_end_of_decode hbase (by rw [hdecode]; nofun)
    exact step_of_ud (fetchBytes_inText hbase hend) hdecode
  · exact step_of_decode_refused (fetchBytes_inText hbase hend) hdecode

end Machine

end Sys2Proof
end

section
/-! The effective address as a sum of integers (R79, R81, R88): the machine's sums are 64-bit words made of integers, and
`trunc` takes them modulo the address size. -/

namespace Sys2Proof

open Claims (addrMod dispInt regNat indexNat eaInt disp8Factor)

/-! ### Truncation -/

theorem addrMod_dvd (a : AddrSize) : (addrMod a : Int) ∣ 2 ^ 64 := by
  cases a <;> decide

theorem AddrSize.trunc_toNat (a : AddrSize) (v : Addr) : (a.trunc v).toNat = v.toNat % addrMod a := by
  cases a with
  | a64 => exact (Nat.mod_eq_of_lt v.isLt).symm
  | a32 =>
    simp only [AddrSize.trunc, addrMod, BitVec.toNat_setWidth]
    omega

/-- The address size divides 2^64, so a word made of an integer is truncated to that integer modulo the address size. -/
theorem AddrSize.trunc_ofInt (a : AddrSize) (z : Int) :
    ((a.trunc (BitVec.ofInt 64 z)).toNat : Int) = z % addrMod a := by
  have hword : ((BitVec.ofInt 64 z).toNat : Int) = z % 2 ^ 64 := by
    rw [BitVec.toNat_ofInt]
    exact Int.toNat_of_nonneg (Int.emod_nonneg z (by decide))
  rw [AddrSize.trunc_toNat, Int.natCast_emod, hword, Int.emod_emod_of_dvd z (addrMod_dvd a)]

/-! ### The parts of the sum -/

theorem eq_ofInt_toNat (v : Addr) : v = BitVec.ofInt 64 v.toNat := by
  rw [BitVec.ofInt_natCast, BitVec.ofNat_toNat, BitVec.setWidth_eq]

theorem signExtend_eq_ofInt (d : BitVec 32) : d.signExtend 64 = BitVec.ofInt 64 d.toInt := rfl

theorem Disp.value_eq (n8 : Nat) (d : Disp) : d.value n8 = BitVec.ofInt 64 (dispInt n8 d) := by
  cases d with
  | none => rfl
  | d8 d => rw [dispInt, BitVec.ofInt_mul, BitVec.ofInt_natCast]; rfl
  | d32 d => rfl

theorem gprNum_eq_four_iff (x : Bool) (index : BitVec 3) : gprNum x index = 4#4 ↔ (gprNum x index).toNat = 4 :=
  ⟨fun h => by rw [h]; rfl, fun h => BitVec.eq_of_toNat_eq h⟩

namespace Machine

section
variable (s : State) (a : AddrSize)

theorem State.addrReg_eq (n : BitVec 4) : s.addrReg a n = BitVec.ofInt 64 (regNat s a n) := by
  rw [eq_ofInt_toNat (s.addrReg a n), State.addrReg, AddrSize.trunc_toNat]
  rfl

theorem State.scaledIndex_eq (x : Bool) (scale : BitVec 2) (index : BitVec 3) :
    s.scaledIndex a x scale index = BitVec.ofInt 64 (indexNat s a x scale index) := by
  unfold State.scaledIndex indexNat
  by_cases h : gprNum x index = 4#4
  · rw [if_pos h, if_pos ((gprNum_eq_four_iff x index).1 h)]
    rfl
  · rw [if_neg h, if_neg (mt (gprNum_eq_four_iff x index).2 h), State.addrReg_eq, BitVec.ofInt_natCast,
      BitVec.ofInt_natCast]
    apply BitVec.eq_of_toNat_eq
    simp [Nat.shiftLeft_eq]

end

/-! ### The sum -/

/-- Settles O51, by the addressing form: each is one sum of words made of integers. -/
theorem effectiveAddressIsTheSum : Obligations.EffectiveAddressIsTheSum := by
  intro s a x b n8 len rm
  cases rm with
  | reg r => simp [State.effAddr, eaInt]
  | base r d =>
    rw [State.effAddr, State.addrReg_eq, Disp.value_eq, ← BitVec.ofInt_add, AddrSize.trunc_ofInt]
    rfl
  | dispOnly d =>
    unfold State.effAddr eaInt
    cases s.mode with
    | m64 =>
      dsimp only
      rw [eq_ofInt_toNat s.pc, ← BitVec.ofInt_natCast, signExtend_eq_ofInt, ← BitVec.ofInt_add, ← BitVec.ofInt_add,
        AddrSize.trunc_ofInt]
      simp
    | m32 => exact AddrSize.trunc_ofInt a d.toInt
  | sib scale index r d =>
    rw [State.effAddr, State.addrReg_eq, State.scaledIndex_eq, Disp.value_eq, ← BitVec.ofInt_add, ← BitVec.ofInt_add,
      AddrSize.trunc_ofInt]
    rfl
  | sibNoBase scale index d =>
    rw [State.effAddr, State.scaledIndex_eq, signExtend_eq_ofInt, ← BitVec.ofInt_add, AddrSize.trunc_ofInt]
    rfl

theorem disp8Factor_eq_operandBytes {i : Instr} (h : disp8Factor i ≠ 1) : disp8Factor i = operandBytes i := by
  cases i with
  | porMm _ | porXmm _ | vporXmm _ | vporYmm _ => exact absurd rfl h
  | vpordXmm _ | vpordYmm _ | vpordZmm _ | vporqXmm _ | vporqYmm _ | vporqZmm _ => rfl

/-- Settles O52, by O51 for the instruction's own fields. -/
theorem operandAddress : Obligations.OperandAddress := by
  refine ⟨fun i s => ?_, fun i => disp8Factor_eq_operandBytes⟩
  rw [operandEA_eq]
  exact effectiveAddressIsTheSum ..

end Machine

end Sys2Proof
end

section
/-! Where every step leaves `pc`: `len` bytes further where it completes, unchanged where it raises an exception (R113, R157). -/

namespace Sys2Proof.Machine

/-! ### A completion -/

/-- The sum that advances `pc` is the one that addresses byte `len` of an operand at `pc`. -/
theorem exec_next_advancedBy {i : Instr} {s t : State} (h : exec i s = .next t) : AdvancedBy i.len s t := by
  rw [AdvancedBy, exec_next_pc h]
  exact State.byteAddr_toNat s.pc i.len

/-! ### An exception -/

theorem exec_fault {i : Instr} {s : State} {f : Fault} (h : exec i s = .fault f) : ∃ x, f = takeException x s := by
  cases i with
  | _ e =>
    obtain ⟨x, hf, -⟩ := runForm_fault_iff.1 (show runForm _ _ _ _ = _ from h)
    exact ⟨x, hf⟩

/-- A step faults by the decoder's #UD or by an exception of the instruction: both are taken in the state before the step. -/
theorem step_fault {s : State} {f : Fault} (h : step s = .fault f) : ∃ x, f = takeException x s := by
  unfold step at h
  split at h
  case h_1 => cases h
  case h_2 =>
    split at h
    case h_1 => exact exec_fault h
    case h_2 =>
      cases h
      exact ⟨.ud, rfl⟩
    case h_3 => cases h

theorem afterFault_pc (s : State) (f : Fault) : (s.afterFault f).pc = s.pc := by
  rw [State.afterFault_eq, State.setCr2_pc]

/-- Settles O23. -/
theorem pcAdvancesOrStays : Obligations.PcAdvancesOrStays := by
  constructor
  case left =>
    intro s t h
    obtain ⟨i, hdecode, hexec, -, -⟩ := step_next h
    exact ⟨i, hdecode, exec_next_advancedBy hexec⟩
  case right =>
    intro s f h
    obtain ⟨x, rfl⟩ := step_fault h
    exact ⟨takeException_savedPc x s, afterFault_pc s _⟩

end Sys2Proof.Machine
end

section
/-! A memory operand that can be read: the read gives its bytes, and the bits of their little-endian value (R51, R54). -/

namespace Sys2Proof.Machine

/-- `OperandReads` is what the checks of the one memory read of an instruction ask for. -/
theorem operandRead_ok {i : Instr} {s : State} {f : Nat → Byte} (h : OperandReads i s f) :
    operandRead i s = .ok ((List.range (operandBytes i)).map f) := by
  obtain ⟨hseg, hsse, hbytes, hmmx, hvector⟩ := h
  refine (State.memRead_ok_iff ..).2 ⟨hseg, ?_, State.readBytes_of_translate hbytes, ?_, ?_⟩ <;> rw [aligned_iff]
  exacts [hsse, hmmx, hvector]

theorem leValue_map_range_getLsbD (w m : Nat) (f : Nat → Byte) (hw : w = 8 * m) (n : Nat) :
    (leValue w ((List.range m).map f)).getLsbD n = (decide (n < w) && byteBit f n) := by
  rw [leValue_getLsbD, byteBit]
  by_cases hn : n < w
  · have hbyte : n / 8 < m := by omega
    simp [hbyte]
  · simp [hn]

end Sys2Proof.Machine
end

section
/-! Rows 1 and 2, the legacy forms of POR (R110, R111): what an enabled form leaves once its source is read, and the value of a
register source and of a memory source. -/

namespace Sys2Proof

open Machine

/-! ### The sources -/

theorem Legacy.mmSource_reg {e : Legacy} {r : BitVec 3} (h : e.rm = .reg r) (s : State) :
    e.mmSource s = .ok (s.mmAt r) := by
  simp only [Legacy.mmSource, h, Rm.asReg]

theorem Legacy.xmmSource_reg {e : Legacy} {r : BitVec 3} (h : e.rm = .reg r) (s : State) :
    e.xmmSource s = .ok (s.vec (vecNum false (rexB e.rex) r) 128) := by
  simp only [Legacy.xmmSource, h, Rm.asReg]

section
variable {e : Legacy} {s : State} {f : Nat → Byte} (hmem : e.rm.isMem = true)
include hmem

theorem Legacy.mmSource_of_operandReads (h : OperandReads (.porMm e) s f) :
    e.mmSource s = .ok (leValue 64 ((List.range 8).map f)) := by
  rw [Legacy.mmSource_mem s hmem]
  exact congrArg (Except.map (leValue 64)) (operandRead_ok h)

theorem Legacy.xmmSource_of_operandReads (h : OperandReads (.porXmm e) s f) :
    e.xmmSource s = .ok (leValue 128 ((List.range 16).map f)) := by
  rw [Legacy.xmmSource_mem s hmem]
  exact congrArg (Except.map (leValue 128)) (operandRead_ok h)

end

namespace Machine

/-! ### Row 1 -/

theorem onlyMmAndPc_setMm (s : State) (d : BitVec 3) (v : BitVec 64) (len : Nat) :
    OnlyMmAndPc d s (((s.setMm d v).mmxToX87 d).advance len) :=
  ⟨Untouched.refl s, rfl, fun r hr =>
    ⟨(State.mmAt_setMm s d r v).trans (if_neg hr),
      (State.x87Hi_mmxToX87 (s.setMm d v) d r).trans (if_neg hr)⟩⟩

/-- Row 1 with its source read. -/
theorem exec_porMm_next {e : Legacy} {s : State} {src : BitVec 64} (hen : MmxEnabled s) (hsrc : e.mmSource s = .ok src) :
    ∃ t, exec (.porMm e) s = .next t ∧ OnlyMmAndPc e.reg s t ∧ AdvancedBy e.len s t ∧
      t.x87.top = 0#3 ∧ t.x87.tags = 0#16 ∧ t.x87Hi e.reg = 0xFFFF#16 ∧
      t.mmAt e.reg = s.mmAt e.reg ||| src := by
  have hexec : exec (.porMm e) s = .next (((s.setMm e.reg (s.mmAt e.reg ||| src)).mmxToX87 e.reg).advance e.len) :=
    runForm_next_iff.2 ⟨State.checkMmx_eq_none_iff.2 hen, src, hsrc, rfl⟩
  obtain ⟨htop, htags, hhi, -⟩ := porMmX87SideEffects.1 e s _ hexec
  refine ⟨_, hexec, onlyMmAndPc_setMm .., exec_next_advancedBy hexec, htop, htags, hhi, ?_⟩
  exact (State.mmAt_setMm s e.reg e.reg _).trans (if_pos rfl)

/-- Settles O24. -/
theorem porMmRegisterForm : Obligations.PorMmRegisterForm := by
  intro e s r hen hrm
  obtain ⟨t, hexec, honly, hpc, htop, htags, hhi, hmm⟩ := exec_porMm_next hen (e.mmSource_reg hrm s)
  refine ⟨t, hexec, honly, hpc, htop, htags, hhi, fun n => ?_⟩
  rw [hmm, BitVec.getLsbD_or]

/-- Settles O25. -/
theorem porMmMemoryForm : Obligations.PorMmMemoryForm := by
  intro e s f hen hmem hreads
  obtain ⟨t, hexec, honly, hpc, htop, htags, hhi, hmm⟩ :=
    exec_porMm_next hen (Legacy.mmSource_of_operandReads hmem hreads)
  refine ⟨t, hexec, honly, hpc, htop, htags, hhi, fun n hn => ?_⟩
  rw [hmm, BitVec.getLsbD_or, leValue_map_range_getLsbD 64 8 f rfl, decide_eq_true hn, Bool.true_and]

/-! ### Row 2 -/

theorem onlyVecAndPc_setZmm (s : State) (d : BitVec 5) (v : BitVec Config.maxvl) (len : Nat) :
    OnlyVecAndPc d s ((s.setZmm d v).advance len) :=
  ⟨Untouched.refl s, rfl, rfl, fun r hr => (State.zmmAt_setZmm s d r v).trans (if_neg hr)⟩

theorem State.vec_getLsbD (s : State) (r : BitVec 5) (vl n : Nat) :
    (s.vec r vl).getLsbD n = (decide (n < vl) && (s.zmmAt r).getLsbD n) :=
  BitVec.getLsbD_setWidth ..

/-- The low 128 bits are the written value, the bits above stay (R111). -/
theorem State.setXmmKeep_zmmAt_getLsbD (s : State) (d : BitVec 5) (v : BitVec 128) (n : Nat) :
    ((s.setXmmKeep d v).zmmAt d).getLsbD n = if n < 128 then v.getLsbD n else (s.zmmAt d).getLsbD n := by
  rw [State.setXmmKeep, State.zmmAt_setZmm, if_pos rfl, setElem_getLsbD]
  by_cases hn : n < 128
  · have hn512 : n < 512 := by omega
    simp [hn, hn512]
  · simp [hn]

theorem State.setXmmKeep_or_getLsbD (s : State) (d : BitVec 5) (v : BitVec 128) (n : Nat) :
    ((s.setXmmKeep d (s.vec d 128 ||| v)).zmmAt d).getLsbD n = ((s.zmmAt d).getLsbD n || v.getLsbD n) := by
  rw [State.setXmmKeep_zmmAt_getLsbD]
  by_cases hn : n < 128
  · rw [if_pos hn, BitVec.getLsbD_or, State.vec_getLsbD, decide_eq_true hn, Bool.true_and]
  · rw [if_neg hn, BitVec.getLsbD_of_ge v n (by omega), Bool.or_false]

/-- Row 2 with its source read. -/
theorem exec_porXmm_next {e : Legacy} {s : State} {src : BitVec 128} (hen : SseEnabled s)
    (hsrc : e.xmmSource s = .ok src) :
    ∃ t, exec (.porXmm e) s = .next t ∧ OnlyVecAndPc e.xmmDest s t ∧ AdvancedBy e.len s t ∧
      ∀ n, (t.zmmAt e.xmmDest).getLsbD n = ((s.zmmAt e.xmmDest).getLsbD n || src.getLsbD n) := by
  have hexec : exec (.porXmm e) s = .next ((s.setXmmKeep e.xmmDest (s.vec e.xmmDest 128 ||| src)).advance e.len) :=
    runForm_next_iff.2 ⟨State.checkSse_eq_none_iff.2 hen, src, hsrc, rfl⟩
  exact ⟨_, hexec, onlyVecAndPc_setZmm .., exec_next_advancedBy hexec, s.setXmmKeep_or_getLsbD e.xmmDest src⟩

/-- Settles O27. -/
theorem porXmmRegisterForm : Obligations.PorXmmRegisterForm := by
  intro e s r hen hrm
  obtain ⟨t, hexec, honly, hpc, hbits⟩ := exec_porXmm_next hen (e.xmmSource_reg hrm s)
  refine ⟨t, hexec, honly, hpc, fun n => ?_⟩
  rw [hbits, State.vec_getLsbD]

/-- Settles O28. -/
theorem porXmmMemoryForm : Obligations.PorXmmMemoryForm := by
  intro e s f hen hmem hreads
  obtain ⟨t, hexec, honly, hpc, hbits⟩ := exec_porXmm_next hen (Legacy.xmmSource_of_operandReads hmem hreads)
  refine ⟨t, hexec, honly, hpc, fun n => ?_⟩
  rw [hbits, leValue_map_range_getLsbD 128 16 f rfl]

end Machine

end Sys2Proof
end

section
/-! Rows 3 and 4, the VEX forms of VPOR (R120 to R122): what an enabled form leaves once its last source is read, at every
vector length, and the value of a register source and of a memory source. -/

namespace Sys2Proof

open Machine Claims

/-! ### The sources -/

theorem Vex.source_reg {e : Vex} {r : BitVec 3} (h : e.rm = .reg r) (vl : Nat) (s : State) :
    e.source vl s = .ok (s.vec (vecNum false e.form.b r) vl) := by
  simp only [Vex.source, h, Rm.asReg]

theorem Vex.source_of_memRead {e : Vex} {s : State} {vl : Nat} {bs : List Byte} (hmem : e.rm.isMem = true)
    (h : s.memRead .vector (e.seg s) (e.effAddr s) (vl / 8) = .ok bs) : e.source vl s = .ok (leValue vl bs) := by
  rw [Vex.source_mem s vl hmem, h, Except.map]

namespace Machine

/-! ### The write of DEST -/

/-- DEST holds the written value in its low `vl` bits and 0 above (R120, R121). -/
theorem State.setVecZero_zmmAt_getLsbD {vl : Nat} (hvl : vl ≤ Config.maxvl) (s : State) (d : BitVec 5) (v : BitVec vl)
    (n : Nat) : ((s.setVecZero d v).zmmAt d).getLsbD n = v.getLsbD n := by
  rw [State.setVecZero, State.zmmAt_setZmm, if_pos rfl, BitVec.getLsbD_setWidth]
  by_cases hn : n < Config.maxvl
  · rw [decide_eq_true hn, Bool.true_and]
  · rw [BitVec.getLsbD_of_ge v n (by omega), Bool.and_false]

theorem setVecZero_advance_advancedBy {vl : Nat} (s : State) (d : BitVec 5) (v : BitVec vl) (len : Nat) :
    AdvancedBy len s ((s.setVecZero d v).advance len) :=
  State.byteAddr_toNat s.pc len

/-! ### Both rows -/

/-- A VEX form with its last source read; `b` is that source by bit. -/
theorem vexOr_next {e : Vex} {s : State} {vl : Nat} {feature : Bool} {src2 : BitVec vl} {b : Nat → Bool}
    (hvl : vl ≤ Config.maxvl) (hen : VexEnabled s) (hfeature : feature = true) (hsrc : e.source vl s = .ok src2)
    (hbits : ∀ n, src2.getLsbD n = (decide (n < vl) && b n)) :
    ∃ t, vexOr vl feature e s = .next t ∧ OnlyVecAndPc e.dest s t ∧ AdvancedBy e.len s t ∧
      ∀ n, (t.zmmAt e.dest).getLsbD n = (decide (n < vl) && ((s.zmmAt e.src1).getLsbD n || b n)) := by
  have hexec : vexOr vl feature e s = .next ((s.setVecZero e.dest (s.vec e.src1 vl ||| src2)).advance e.len) :=
    runForm_next_iff.2 ⟨(State.checkVex_eq_none_iff feature).2 ⟨hen, hfeature⟩, src2, hsrc, rfl⟩
  refine ⟨_, hexec, onlyVecAndPc_setZmm .., setVecZero_advance_advancedBy .., fun n => ?_⟩
  rw [State.advance_zmmAt, State.setVecZero_zmmAt_getLsbD hvl, BitVec.getLsbD_or, State.vec_getLsbD, hbits,
    Bool.and_or_distrib_left]

section
variable {vl : Nat} {feature : State → Bool} {mk : Vex → Instr} (hvl : vl ≤ Config.maxvl)
  (hexec : ∀ e s, exec (mk e) s = vexOr vl (feature s) e s)
include hvl hexec

theorem vexRegister_of_exec_eq_vexOr : vexRegister vl feature mk := by
  intro e s r hen hfeature hrm
  rw [hexec]
  exact vexOr_next hvl hen hfeature (e.source_reg hrm vl s) (s.vec_getLsbD _ vl)

theorem vexMemory_of_exec_eq_vexOr (hbytes : vl = 8 * (vl / 8))
    (hread : ∀ e s f, OperandReads (mk e) s f →
      s.memRead .vector (e.seg s) (e.effAddr s) (vl / 8) = .ok ((List.range (vl / 8)).map f)) :
    vexMemory vl feature mk := by
  intro e s f hen hfeature hmem hreads
  rw [hexec]
  exact vexOr_next hvl hen hfeature (Vex.source_of_memRead hmem (hread e s f hreads))
    (leValue_map_range_getLsbD vl (vl / 8) f hbytes)

end

/-- Settles O29. -/
theorem vporRegisterForms : Obligations.VporRegisterForms :=
  ⟨vexRegister_of_exec_eq_vexOr (by decide) fun _ _ => rfl, vexRegister_of_exec_eq_vexOr (by decide) fun _ _ => rfl⟩

/-- Settles O30. -/
theorem vporMemoryForms : Obligations.VporMemoryForms :=
  ⟨vexMemory_of_exec_eq_vexOr (by decide) (fun _ _ => rfl) rfl fun _ _ _ => operandRead_ok,
    vexMemory_of_exec_eq_vexOr (by decide) (fun _ _ => rfl) rfl fun _ _ _ => operandRead_ok⟩

end Machine

end Sys2Proof
end

section
/-! Rows 5 to 10, the EVEX forms VPORD and VPORQ (R130 to R138): what an enabled form leaves once its last source is read,
for every element size and vector length, and which opmask bits it does not read. -/

namespace Sys2Proof

open Machine Claims

/-! ### The sources -/

theorem Evex.source_reg {e : Evex} {r : BitVec 3} (h : e.rm = .reg r) (hb : e.bcast = false) (es vl : Nat) (s : State) :
    e.source es vl s = .ok (s.vec (vecNum e.x e.b r) vl) := by
  simp [Evex.source, h, Rm.asReg, hb]

theorem Evex.memBytes_of_not_bcast {e : Evex} (hb : e.bcast = false) (es vl : Nat) : e.memBytes es vl = vl / 8 := by
  simp [Evex.memBytes, hb]

theorem Evex.memBytes_of_bcast {e : Evex} (hb : e.bcast = true) (es vl : Nat) : e.memBytes es vl = es / 8 := by
  simp [Evex.memBytes, hb]

theorem Evex.memValue_of_not_bcast {e : Evex} (hb : e.bcast = false) (es vl : Nat) :
    e.memValue es vl = leValue vl := by
  funext bs
  simp [Evex.memValue, hb]

theorem Evex.memValue_of_bcast {e : Evex} (hb : e.bcast = true) (es vl : Nat) (bs : List Byte) :
    e.memValue es vl bs = replicateElem es vl (leValue es bs) (vl / es) := by
  simp [Evex.memValue, hb]

/-- Without broadcast the source does not depend on the element size (R138). -/
theorem Evex.source_elemSize {e : Evex} (hb : e.bcast = false) (es es' vl : Nat) (s : State) :
    e.source es vl s = e.source es' vl s := by
  simp only [Evex.source, Evex.effAddr, Evex.memBytes_of_not_bcast hb, Evex.memValue_of_not_bcast hb]

/-- No opmask register is read to fetch the last source. -/
theorem Evex.source_withOpmasks (e : Evex) (es vl : Nat) (s : State) (k' : Vector (BitVec Config.kw) 8) :
    e.source es vl { s with k := k' } = e.source es vl s := by
  have hparams : SameParams s { s with k := k' } := ⟨rfl, rfl, rfl, rfl, rfl, rfl⟩
  unfold Evex.source
  rw [State.memRead_congr hparams rfl rfl]
  rfl

namespace Machine

/-! ### The element loop -/

theorem evexWrites_iff (e : Evex) (s : State) (j : Nat) :
    evexWrites e s j = true ↔ e.aaa = 0#3 ∨ (s.opmask e.aaa).getLsbD j = true := by
  simp only [evexWrites, Bool.or_eq_true, beq_iff_eq]

/-- `evexBit` is the element loop by bit: `b` is SRC2 by bit, and the elements fill the vector (R130). -/
theorem evexResult_getLsbD {es vl : Nat} (hes : 0 < es) (hvl : es ∣ vl) (e : Evex) (s : State) {src2 : BitVec vl}
    {b : Nat → Bool} (hbits : ∀ n, src2.getLsbD n = (decide (n < vl) && b n)) (n : Nat) :
    (evexResult es vl e s src2).getLsbD n = evexBit es vl e s b n := by
  rw [evexResult, evexLoop_getLsbD es hes, Nat.div_mul_cancel hvl, evexBit]
  simp only [evexWrites_iff, State.vec_getLsbD, hbits]
  by_cases hn : n < vl
  · simp only [hn, decide_true, Bool.true_and, if_true]
  · simp only [hn, decide_false, Bool.false_and, if_false]

/-- Without a writemask the result is the OR of the whole sources, whatever the element size (R138). -/
theorem evexResult_noMask {es vl : Nat} (hes : 0 < es) (hvl : es ∣ vl) {e : Evex} (haaa : e.aaa = 0#3) (s : State)
    (src2 : BitVec vl) : evexResult es vl e s src2 = s.vec e.src1 vl ||| src2 := by
  refine BitVec.eq_of_getLsbD_eq fun n hn => ?_
  have hwrites : evexWrites e s (n / es) = true := (evexWrites_iff e s _).2 (.inl haaa)
  rw [evexResult, evexLoop_getLsbD es hes, Nat.div_mul_cancel hvl, if_pos hn, if_pos hwrites, BitVec.getLsbD_or]

theorem evexLoop_congr {vl : Nat} (es : Nat) {writes writes' : Nat → Bool} (zeroing : Bool) (src1 src2 dest : BitVec vl)
    {n : Nat} (h : ∀ j, j < n → writes' j = writes j) :
    evexLoop es writes' zeroing src1 src2 dest n = evexLoop es writes zeroing src1 src2 dest n := by
  induction n with
  | zero => rfl
  | succ n ih => rw [evexLoop, evexLoop, ih fun j hj => h j (by omega), h n (by omega)]

/-! ### All six rows -/

/-- The element size, the vector length and the constructor of each of rows 5 to 10 (R131 to R136). -/
inductive EvexRow : Nat → Nat → (Evex → Instr) → Prop where
  | vpordXmm : EvexRow 32 128 .vpordXmm
  | vpordYmm : EvexRow 32 256 .vpordYmm
  | vpordZmm : EvexRow 32 512 .vpordZmm
  | vporqXmm : EvexRow 64 128 .vporqXmm
  | vporqYmm : EvexRow 64 256 .vporqYmm
  | vporqZmm : EvexRow 64 512 .vporqZmm

section
variable {es vl : Nat} {mk : Evex → Instr} (row : EvexRow es vl mk)
include row

theorem EvexRow.exec_eq (e : Evex) (s : State) : exec (mk e) s = evexOr es vl e s := by
  cases row <;> rfl

theorem EvexRow.operandRead_eq (e : Evex) (s : State) :
    operandRead (mk e) s = s.memRead .vector (e.seg s) (e.effAddr es vl s) (e.memBytes es vl) := by
  cases row <;> rfl

theorem EvexRow.operandBytes_eq (e : Evex) : operandBytes (mk e) = e.memBytes es vl := by
  cases row <;> rfl

theorem EvexRow.elem_pos : 0 < es := by cases row <;> decide

theorem EvexRow.elem_bytes : es = 8 * (es / 8) := by cases row <;> rfl

theorem EvexRow.elem_dvd : es ∣ vl := by cases row <;> decide

theorem EvexRow.vec_bytes : vl = 8 * (vl / 8) := by cases row <;> rfl

theorem EvexRow.vec_le : vl ≤ Config.maxvl := by cases row <;> decide

theorem EvexRow.source_of_operandReads {e : Evex} {s : State} {f : Nat → Byte} (hmem : e.rm.isMem = true)
    (h : OperandReads (mk e) s f) :
    e.source es vl s = .ok (e.memValue es vl ((List.range (e.memBytes es vl)).map f)) := by
  rw [e.source_mem s es vl hmem, ← row.operandRead_eq, operandRead_ok h, row.operandBytes_eq, Except.map]

/-- A broadcast operand by bit: every element is the one that was read (R63, R130). -/
theorem EvexRow.replicateElem_leValue_getLsbD (f : Nat → Byte) (n : Nat) :
    (replicateElem es vl (leValue es ((List.range (es / 8)).map f)) (vl / es)).getLsbD n =
      (decide (n < vl) && byteBit f (n % es)) := by
  have hmod : n % es < es := Nat.mod_lt n row.elem_pos
  rw [replicateElem_getLsbD es vl _ row.elem_pos, leValue_map_range_getLsbD es (es / 8) f row.elem_bytes,
    Nat.div_mul_cancel row.elem_dvd, Bool.and_self, decide_eq_true hmod, Bool.true_and]

/-- An EVEX form with its last source read; `b` is that source by bit. -/
theorem EvexRow.exec_of_source {e : Evex} {s : State} {src2 : BitVec vl} {b : Nat → Bool} (hen : EvexEnabled vl s)
    (hmask : e.zeroNoMask = false) (hsrc : e.source es vl s = .ok src2)
    (hbits : ∀ n, src2.getLsbD n = (decide (n < vl) && b n)) :
    ∃ t, exec (mk e) s = .next t ∧ OnlyVecAndPc e.dest s t ∧ AdvancedBy e.len s t ∧
      ∀ n, (t.zmmAt e.dest).getLsbD n = evexBit es vl e s b n := by
  have hexec : exec (mk e) s = .next ((s.setVecZero e.dest (evexResult es vl e s src2)).advance e.len) :=
    (row.exec_eq e s).trans
      (runForm_next_iff.2 ⟨(State.checkEvex_eq_none_iff vl e).2 ⟨hen, hmask⟩, src2, hsrc, rfl⟩)
  refine ⟨_, hexec, onlyVecAndPc_setZmm .., setVecZero_advance_advancedBy .., fun n => ?_⟩
  rw [State.advance_zmmAt, State.setVecZero_zmmAt_getLsbD row.vec_le,
    evexResult_getLsbD row.elem_pos row.elem_dvd e s hbits]

theorem evexRegister_of_row : evexRegister es vl mk := by
  intro e s r hen hmask hb hrm
  exact row.exec_of_source hen hmask (e.source_reg hrm hb es vl s) (s.vec_getLsbD _ vl)

theorem evexMemory_of_row : evexMemory es vl mk := by
  intro e s f hen hmask hb hmem hreads
  have hsrc := row.source_of_operandReads hmem hreads
  rw [Evex.memBytes_of_not_bcast hb, Evex.memValue_of_not_bcast hb] at hsrc
  exact row.exec_of_source hen hmask hsrc (leValue_map_range_getLsbD vl (vl / 8) f row.vec_bytes)

theorem evexBroadcast_of_row : evexBroadcast es vl mk := by
  intro e s f hen hmask hb hmem hreads
  have hsrc := row.source_of_operandReads hmem hreads
  rw [Evex.memBytes_of_bcast hb, Evex.memValue_of_bcast hb] at hsrc
  exact row.exec_of_source hen hmask hsrc (row.replicateElem_leValue_getLsbD f)

/-- Without a writemask a form ORs its whole sources (R138). -/
theorem EvexRow.exec_noMask {e : Evex} (haaa : e.aaa = 0#3) (s : State) :
    exec (mk e) s = runForm s (s.checkEvex vl e) (e.source es vl s) fun src2 =>
      (s.setVecZero e.dest (s.vec e.src1 vl ||| src2)).advance e.len := by
  rw [row.exec_eq]
  simp only [evexOr, evexResult_noMask row.elem_pos row.elem_dvd haaa]

/-- KL is the number of elements (R137). -/
theorem ignoresHighMask_of_row : ignoresHighMask (vl / es) mk := by
  intro e s k' hk
  have hwrites (j : Nat) (hj : j < vl / es) : evexWrites e { s with k := k' } j = evexWrites e s j := by
    by_cases haaa : e.aaa = 0#3
    · simp only [evexWrites, haaa, beq_self_eq_true, Bool.true_or]
    · simp only [evexWrites, hk haaa j hj]
  rw [row.exec_eq, row.exec_eq]
  refine runForm_match rfl (State.checkEvex_congr rfl vl e) (e.source_withOpmasks es vl s k') fun src2 => ?_
  have hresult : evexResult es vl e { s with k := k' } src2 = evexResult es vl e s src2 :=
    evexLoop_congr es e.z (s.vec e.src1 vl) src2 (s.vec e.dest vl) hwrites
  rw [hresult]
  rfl

end

/-- R138: the element size matters only to the writemask and to broadcast. -/
theorem EvexRow.exec_elemSize {es es' vl : Nat} {mk mk' : Evex → Instr} (row : EvexRow es vl mk)
    (row' : EvexRow es' vl mk') {e : Evex} (haaa : e.aaa = 0#3) (hb : e.bcast = false) (s : State) :
    exec (mk e) s = exec (mk' e) s := by
  rw [row.exec_noMask haaa, row'.exec_noMask haaa, Evex.source_elemSize hb es es']

/-- Settles O31. -/
theorem evexRegisterForms : Obligations.EvexRegisterForms :=
  ⟨evexRegister_of_row .vpordXmm, evexRegister_of_row .vpordYmm, evexRegister_of_row .vpordZmm,
    evexRegister_of_row .vporqXmm, evexRegister_of_row .vporqYmm, evexRegister_of_row .vporqZmm⟩

/-- Settles O32. -/
theorem evexMemoryForms : Obligations.EvexMemoryForms :=
  ⟨evexMemory_of_row .vpordXmm, evexMemory_of_row .vpordYmm, evexMemory_of_row .vpordZmm,
    evexMemory_of_row .vporqXmm, evexMemory_of_row .vporqYmm, evexMemory_of_row .vporqZmm⟩

/-- Settles O33. -/
theorem evexBroadcastForms : Obligations.EvexBroadcastForms :=
  ⟨evexBroadcast_of_row .vpordXmm, evexBroadcast_of_row .vpordYmm, evexBroadcast_of_row .vpordZmm,
    evexBroadcast_of_row .vporqXmm, evexBroadcast_of_row .vporqYmm, evexBroadcast_of_row .vporqZmm⟩

/-- Settles O34. -/
theorem vpordAndVporqAgree : Obligations.VpordAndVporqAgree := fun _ s haaa hb =>
  ⟨EvexRow.vpordXmm.exec_elemSize .vporqXmm haaa hb s, EvexRow.vpordYmm.exec_elemSize .vporqYmm haaa hb s,
    EvexRow.vpordZmm.exec_elemSize .vporqZmm haaa hb s⟩

/-- Settles O35: KL is the vector length over the element size. -/
theorem highMaskBitsAreIgnored : Obligations.HighMaskBitsAreIgnored :=
  ⟨ignoresHighMask_of_row .vpordXmm, ignoresHighMask_of_row .vpordYmm, ignoresHighMask_of_row .vpordZmm,
    ignoresHighMask_of_row .vporqXmm, ignoresHighMask_of_row .vporqYmm, ignoresHighMask_of_row .vporqZmm⟩

end Machine

end Sys2Proof
end

section
/-! The exceptions an instruction can raise (R151 to R157): those of its control-state check, those of the read of a memory
operand, and no others. -/

namespace Sys2Proof

open Machine

/-! ### Where an exception comes from -/

theorem Rm.eq_reg_of_not_isMem {rm : Rm} (h : rm.isMem = false) : ∃ r, rm = .reg r := by
  cases rm with
  | reg r => exact ⟨r, rfl⟩
  | base | dispOnly | sib | sibNoBase => cases h

/-- A broadcast register is refused (D15). -/
theorem Evex.source_bcastReg {e : Evex} {r : BitVec 3} (h : e.rm = .reg r) (hb : e.bcast = true) (es vl : Nat)
    (s : State) : e.source es vl s = .error (.refuse (.decode .broadcastRegister)) := by
  simp [Evex.source, h, Rm.asReg, hb]

theorem Evex.source_reg_ne_exc {e : Evex} {r : BitVec 3} (h : e.rm = .reg r) (es vl : Nat) (s : State) (x : Exc) :
    e.source es vl s ≠ .error (.exc x) := by
  cases hb : e.bcast with
  | false => rw [Evex.source_reg h hb]; nofun
  | true => rw [Evex.source_bcastReg h hb]; nofun

namespace Machine

/-- The control-state and feature conditions of each instruction (R152 to R155). -/
def controlCheck (i : Instr) (s : State) : Option Exc :=
  match i with
  | .porMm _ => s.checkMmx
  | .porXmm _ => s.checkSse
  | .vporXmm _ => s.checkVex s.env.hasAVX
  | .vporYmm _ => s.checkVex s.env.hasAVX2
  | .vpordXmm e => s.checkEvex 128 e
  | .vpordYmm e => s.checkEvex 256 e
  | .vpordZmm e => s.checkEvex 512 e
  | .vporqXmm e => s.checkEvex 128 e
  | .vporqYmm e => s.checkEvex 256 e
  | .vporqZmm e => s.checkEvex 512 e

/-- A control-state condition comes before the operand, whatever it is (R158). -/
theorem exec_of_controlCheck {i : Instr} {s : State} {x : Exc} (h : controlCheck i s = some x) :
    exec i s = .fault (takeException x s) := by
  cases i with
  | _ e => exact runForm_fault_iff.2 ⟨x, rfl, .inl h⟩

/-- The last source of every family is a memory read where the operand is in memory, and raises nothing where it is a
register: so a fault comes from the check or from that read. -/
theorem runForm_fault_source {α : Type} {s : State} {f : Fault} {check : Option Exc} {src : Except Stop α}
    {finish : α → State} {rm : Rm} {read : Except Stop (List Byte)} {value : List Byte → α}
    (h : runForm s check src finish = .fault f) (hmem : rm.isMem = true → src = read.map value)
    (hreg : ∀ r, rm = .reg r → ∀ x, src ≠ .error (.exc x)) :
    ∃ x, f = takeException x s ∧ (check = some x ∨ (rm.isMem = true ∧ read = .error (.exc x))) := by
  obtain ⟨x, hf, hcheck | ⟨-, hsrc⟩⟩ := runForm_fault_iff.1 h
  · exact ⟨x, hf, .inl hcheck⟩
  · cases hrm : rm.isMem with
    | false =>
      obtain ⟨r, hr⟩ := Rm.eq_reg_of_not_isMem hrm
      exact absurd hsrc (hreg r hr x)
    | true =>
      rw [hmem hrm] at hsrc
      cases read with
      | ok bs => cases hsrc
      | error stop =>
        cases hsrc
        exact ⟨x, hf, .inr ⟨rfl, rfl⟩⟩

/-- A fault comes from the control-state check or from the read of a memory operand (R157, R158). -/
theorem exec_fault_source {i : Instr} {s : State} {f : Fault} (h : exec i s = .fault f) :
    ∃ x, f = takeException x s ∧
      (controlCheck i s = some x ∨ ((lastOperand i).isMem = true ∧ operandRead i s = .error (.exc x))) := by
  cases i with
  | porMm e => exact runForm_fault_source h (Legacy.mmSource_mem s) fun r hr x => by rw [Legacy.mmSource_reg hr]; nofun
  | porXmm e => exact runForm_fault_source h (Legacy.xmmSource_mem s) fun r hr x => by rw [Legacy.xmmSource_reg hr]; nofun
  | vporXmm e | vporYmm e =>
    exact runForm_fault_source h (Vex.source_mem s _) fun r hr x => by rw [Vex.source_reg hr]; nofun
  | _ e => exact runForm_fault_source h (Evex.source_mem s _ _) fun r hr x => Evex.source_reg_ne_exc hr _ _ s x

/-! ### Which exceptions there are -/

/-- The exceptions of R151, each with what it takes to raise it (R152 to R156). -/
inductive MayRaise (i : Instr) (s : State) : Exc → Prop where
  | ud : MayRaise i s .ud
  | nm : MayRaise i s .nm
  | mf (e : Legacy) (hrow : i = .porMm e) : MayRaise i s .mf
  | ss (hmem : (lastOperand i).isMem = true) : MayRaise i s .ss
  | gp (hmem : (lastOperand i).isMem = true) : MayRaise i s .gp
  | pf (c : BitVec 32) (a : Addr) (hmem : (lastOperand i).isMem = true) (htranslate : s.translate a = .error c) :
      MayRaise i s (.pf c a)
  | ac (e : Legacy) (hmem : (lastOperand i).isMem = true) (hrow : i = .porMm e) : MayRaise i s .ac

theorem check_eq_some_iff {c : Prop} [Decidable c] (x y : Exc) (rest : Option Exc) :
    (if c then some x else rest) = some y ↔ c ∧ x = y ∨ ¬ c ∧ rest = some y := by
  by_cases h : c <;> simp [h]

/-- Every check is #UD, then #NM, then the rest: #MF in row 1, else nothing (R158). -/
theorem eq_ud_or_nm_or_rest {c d : Prop} [Decidable c] [Decidable d] {rest : Option Exc} {x : Exc}
    (h : (if c then some Exc.ud else if d then some .nm else rest) = some x) : x = .ud ∨ x = .nm ∨ rest = some x := by
  obtain ⟨-, rfl⟩ | ⟨-, h⟩ := (check_eq_some_iff ..).1 h
  · exact .inl rfl
  · obtain ⟨-, rfl⟩ | ⟨-, hrest⟩ := (check_eq_some_iff ..).1 h
    · exact .inr (.inl rfl)
    · exact .inr (.inr hrest)

theorem controlCheck_mayRaise {i : Instr} {s : State} {x : Exc} (h : controlCheck i s = some x) : MayRaise i s x := by
  cases i with
  | porMm e =>
    obtain rfl | rfl | hmf := eq_ud_or_nm_or_rest h
    · exact .ud
    · exact .nm
    · obtain ⟨-, rfl⟩ | ⟨-, ⟨⟩⟩ := (check_eq_some_iff ..).1 hmf
      exact .mf e rfl
  | _ e =>
    obtain rfl | rfl | ⟨⟨⟩⟩ := eq_ud_or_nm_or_rest h
    · exact .ud
    · exact .nm

theorem eq_porMm_of_alignRule {i : Instr} (h : alignRule i = .mmx) : ∃ e, i = .porMm e := by
  cases i with
  | porMm e => exact ⟨e, rfl⟩
  | _ e => cases h

theorem operandRead_mayRaise {i : Instr} {s : State} {x : Exc} (hmem : (lastOperand i).isMem = true)
    (h : operandRead i s = .error (.exc x)) : MayRaise i s x := by
  obtain rfl | rfl | ⟨c, a, rfl, hc⟩ | ⟨rfl, hrule⟩ := State.memRead_exc h
  · exact .ss hmem
  · exact .gp hmem
  · exact .pf c a hmem hc
  · obtain ⟨e, hrow⟩ := eq_porMm_of_alignRule hrule
    exact .ac e hmem hrow

/-- All that a faulting instruction can have raised. -/
theorem exec_fault_mayRaise {i : Instr} {s : State} {f : Fault} (h : exec i s = .fault f) :
    ∃ x, f = takeException x s ∧ MayRaise i s x := by
  obtain ⟨x, hf, hcheck | ⟨hmem, hread⟩⟩ := exec_fault_source h
  · exact ⟨x, hf, controlCheck_mayRaise hcheck⟩
  · exact ⟨x, hf, operandRead_mayRaise hmem hread⟩

/-- Settles O49. -/
theorem onlyRow1RaisesMfOrAc : Obligations.OnlyRow1RaisesMfOrAc := by
  intro i s f h
  obtain ⟨x, rfl, hx⟩ := exec_fault_mayRaise h
  cases hx with
  | mf e hrow | ac e _ hrow => exact ⟨by simp [takeException, Fault.vector], fun _ => ⟨e, hrow⟩⟩
  | ud | nm | ss | gp | pf => simp [takeException, Fault.vector]

/-- Settles O50. -/
theorem registerFormsRaiseNoMemoryFault : Obligations.RegisterFormsRaiseNoMemoryFault := by
  intro i s f hreg h
  obtain ⟨x, rfl, hx⟩ := exec_fault_mayRaise h
  cases hx with
  | ud => exact .inl rfl
  | nm => exact .inr (.inl rfl)
  | mf => exact .inr (.inr rfl)
  | ss hmem | gp hmem | pf _ _ hmem | ac _ hmem => exact absurd hmem (Bool.eq_false_iff.1 hreg)

end Machine

end Sys2Proof
end

section
/-! The values a fault is recorded with (R157, R162): the error codes, the bits of the page-fault code, and CR2. -/

namespace Sys2Proof.Machine

open Claims

theorem State.pfCode_bits (s : State) (p rsvd : Bool) :
    (s.pfCode p rsvd).getLsbD 0 = p ∧ (s.pfCode p rsvd).getLsbD 1 = false ∧
      (s.pfCode p rsvd).getLsbD 2 = decide (s.env.cpl = 3) ∧ (s.pfCode p rsvd).getLsbD 3 = rsvd ∧
      (s.pfCode p rsvd).getLsbD 4 = false := by
  unfold State.pfCode
  by_cases hcpl : s.env.cpl = 3 <;> cases p <;> cases rsvd <;> simp [hcpl]

/-- P and RSVD decide whether a code is as R162 has it; the other bits are always right. -/
theorem pageFaultCode_pfCode_iff (s : State) (a : Addr) (p rsvd : Bool) :
    pageFaultCode s a (s.pfCode p rsvd) ↔
      (rsvd = true ↔ ∃ g, s.pageOf a = some g ∧ g.kind = .reservedBit) ∧
      ((∃ g, s.pageOf a = some g ∧ g.kind = .notPresent) → p = false) ∧
      ((∃ g phys, s.pageOf a = some g ∧ g.kind = .present phys false ∧ s.env.cpl = 3) → p = true) := by
  obtain ⟨hp, hwr, hus, hrsvd, hid⟩ := s.pfCode_bits p rsvd
  simp only [pageFaultCode, hp, hwr, hus, hrsvd, hid, decide_eq_true_eq, true_and]

theorem State.physByte_error {s : State} {i : Nat} {c : BitVec 32} (h : s.physByte i = .error c) :
    c = s.pfCode false false := by
  unfold State.physByte at h
  split at h <;> cases h
  rfl

theorem State.translate_error_pageFaultCode {s : State} {a : Addr} {c : BitVec 32} (h : s.translate a = .error c) :
    pageFaultCode s a c := by
  cases hpage : s.pageOf a with
  | none =>
    rw [State.translate, hpage] at h
    rw [State.physByte_error h, pageFaultCode_pfCode_iff]
    simp [hpage]
  | some g =>
    cases hkind : g.kind with
    | notPresent =>
      rw [State.translate_notPresent hpage hkind] at h
      cases h
      rw [pageFaultCode_pfCode_iff]
      simp [hpage, hkind]
    | reservedBit =>
      rw [State.translate_reservedBit hpage hkind] at h
      cases h
      rw [pageFaultCode_pfCode_iff]
      simp [hpage, hkind]
    | present phys user =>
      by_cases hsup : user = false ∧ s.env.cpl = 3
      · obtain ⟨rfl, hcpl⟩ := hsup
        rw [State.translate_supervisor hpage hkind hcpl] at h
        cases h
        rw [pageFaultCode_pfCode_iff]
        simp [hpage, hkind]
      · have hallowed : user = true ∨ s.env.cpl ≠ 3 := by simpa [Decidable.or_iff_not_imp_left] using hsup
        rw [State.translate_present hpage hkind hallowed] at h
        rw [State.physByte_error h, pageFaultCode_pfCode_iff]
        simpa [hpage, hkind] using hsup

/-- `step_fault`, with the page fault of an operand byte that does not translate: the decoder raises #UD only. -/
theorem step_fault_translate {s : State} {f : Fault} (h : step s = .fault f) :
    ∃ x, f = takeException x s ∧ ∀ c a, x = .pf c a → s.translate a = .error c := by
  unfold step at h
  split at h
  case h_1 => cases h
  case h_2 =>
    split at h
    case h_1 =>
      obtain ⟨x, hf, hx⟩ := exec_fault_mayRaise h
      refine ⟨x, hf, ?_⟩
      rintro c a rfl
      cases hx with
      | pf _ _ _ htranslate => exact htranslate
    case h_2 =>
      cases h
      exact ⟨.ud, rfl, nofun⟩
    case h_3 => cases h

/-- Settles O48. -/
theorem faultValuesRecorded : Obligations.FaultValuesRecorded := by
  intro s f h
  obtain ⟨x, rfl, hpf⟩ := step_fault_translate h
  cases x with
  | ud | nm | mf => exact ⟨fun _ => ⟨rfl, rfl⟩, by simp [takeException, Fault.vector], nofun⟩
  | ss | gp | ac => exact ⟨by simp [takeException, Fault.vector], fun _ => ⟨rfl, rfl⟩, nofun⟩
  | pf c a =>
    have htranslate : s.translate a = .error c := hpf c a rfl
    refine ⟨by simp [takeException, Fault.vector], by simp [takeException, Fault.vector], fun _ => ?_⟩
    exact ⟨c, a, rfl, rfl, htranslate, State.translate_error_pageFaultCode htranslate⟩

end Sys2Proof.Machine
end

section
/-! The control-state and feature checks by their outcome, #UD before #NM before #MF (R152 to R155, R158), and the privilege
level, which no register form reads (R165). -/

namespace Sys2Proof

open Machine Claims

theorem Evex.zeroNoMask_iff (e : Evex) : e.zeroNoMask = true ↔ e.z = true ∧ e.aaa = 0#3 := by
  rw [Evex.zeroNoMask, Bool.and_eq_true, beq_iff_eq]

theorem Evex.zeroNoMask_eq_false_iff (e : Evex) : e.zeroNoMask = false ↔ e.z = false ∨ e.aaa ≠ 0#3 := by
  rw [← Bool.not_eq_true, Evex.zeroNoMask_iff, not_and_or, Bool.not_eq_true]

theorem Evex.source_withCpl {e : Evex} {r : BitVec 3} (h : e.rm = .reg r) (es vl : Nat) (s : State) (c : Fin 4) :
    e.source es vl { s with env := { s.env with cpl := c } } = e.source es vl s := by
  cases hb : e.bcast with
  | false =>
    rw [Evex.source_reg h hb, Evex.source_reg h hb]
    rfl
  | true => rw [Evex.source_bcastReg h hb, Evex.source_bcastReg h hb]

namespace Machine

/-! ### When the check of a class raises #UD, and when #NM -/

section
variable {s : State}

/-- #NM is raised where no #UD condition holds and CR0.TS is set (R158). -/
theorem check_eq_nm {c d : Prop} [Decidable c] [Decidable d] (hc : ¬ c) (hd : d) (rest : Option Exc) :
    (if c then some Exc.ud else if d then some .nm else rest) = some .nm :=
  (if_neg hc).trans (if_pos hd)

theorem State.avxEnabled_eq_false_iff :
    s.avxEnabled = false ↔ s.env.xcr0.getLsbD 1 = false ∨ s.env.xcr0.getLsbD 2 = false := by
  rw [← Bool.not_eq_true, State.avxEnabled_iff, not_and_or, Bool.not_eq_true, Bool.not_eq_true]

theorem State.avx512Enabled_iff_forall :
    s.avx512Enabled = true ↔ ∀ b ∈ [1, 2, 5, 6, 7], s.env.xcr0.getLsbD b = true := by
  simp [State.avx512Enabled_iff, and_assoc]

theorem State.avx512Enabled_eq_false_iff :
    s.avx512Enabled = false ↔ ∃ b ∈ [1, 2, 5, 6, 7], s.env.xcr0.getLsbD b = false := by
  rw [← Bool.not_eq_true, State.avx512Enabled_iff_forall]
  push Not
  simp only [Bool.not_eq_true]

theorem State.evexFeature_eq_false_iff (vl : Nat) :
    s.evexFeature vl = false ↔ s.env.hasAVX512F = false ∨ (vl ≠ 512 ∧ s.env.hasAVX512VL = false) := by
  rw [← Bool.not_eq_true, State.evexFeature_iff, not_and_or, not_or, Bool.not_eq_true, Bool.not_eq_true]

theorem State.checkVex_ud {feature : Bool}
    (h : s.env.cr4OSXSAVE = false ∨ s.avxEnabled = false ∨ feature = false) : s.checkVex feature = some .ud :=
  if_pos h

theorem State.checkVex_nm (hsave : s.env.cr4OSXSAVE = true) (havx : s.avxEnabled = true) (hts : s.env.cr0TS = true) :
    s.checkVex true = some .nm :=
  check_eq_nm (by simp [hsave, havx]) hts _

theorem State.checkEvex_ud {vl : Nat} {e : Evex} (h : s.env.cr4OSXSAVE = false ∨ s.avx512Enabled = false ∨
    s.evexFeature vl = false ∨ e.zeroNoMask = true) : s.checkEvex vl e = some .ud :=
  if_pos h

theorem State.checkEvex_of_no_feature {vl : Nat} {e : Evex}
    (h : s.env.hasAVX512F = false ∨ (vl ≠ 512 ∧ s.env.hasAVX512VL = false)) : s.checkEvex vl e = some .ud :=
  State.checkEvex_ud (.inr (.inr (.inl ((State.evexFeature_eq_false_iff vl).2 h))))

theorem State.checkEvex_nm {vl : Nat} {e : Evex} (hsave : s.env.cr4OSXSAVE = true) (havx : s.avx512Enabled = true)
    (hfeature : s.evexFeature vl = true) (hmask : e.zeroNoMask = false) (hts : s.env.cr0TS = true) :
    s.checkEvex vl e = some .nm :=
  check_eq_nm (by simp [hsave, havx, hfeature, hmask]) hts _

end

/-! ### The traps of each class -/

/-- Settles O39. -/
theorem porMmControlTraps : Obligations.PorMmControlTraps := by
  intro e s
  refine ⟨fun hud => ?ud, fun hem hmmx hts => ?nm, fun hem hmmx hts hes => ?mf⟩
  case ud =>
    have hcheck : s.checkMmx = some .ud := if_pos hud
    exact exec_of_controlCheck (i := .porMm e) hcheck
  case nm =>
    have hcheck : s.checkMmx = some .nm := check_eq_nm (by simp [hem, hmmx]) hts _
    exact exec_of_controlCheck (i := .porMm e) hcheck
  case mf =>
    have hcheck : s.checkMmx = some .mf := by simp [State.checkMmx, hem, hmmx, hts, hes]
    exact exec_of_controlCheck (i := .porMm e) hcheck

/-- Settles O40. -/
theorem porXmmControlTraps : Obligations.PorXmmControlTraps := by
  intro e s
  refine ⟨fun hud => ?ud, fun hem hfxsr hsse hts => ?nm⟩
  case ud =>
    have hcheck : s.checkSse = some .ud := if_pos hud
    exact exec_of_controlCheck (i := .porXmm e) hcheck
  case nm =>
    have hcheck : s.checkSse = some .nm := check_eq_nm (by simp [hem, hfxsr, hsse]) hts _
    exact exec_of_controlCheck (i := .porXmm e) hcheck

theorem vexTraps_of_controlCheck {feature : State → Bool} {mk : Vex → Instr}
    (hcheck : ∀ e s, controlCheck (mk e) s = s.checkVex (feature s)) : vexTraps feature mk := by
  intro e s
  refine ⟨fun hud => ?ud, fun hsave h1 h2 hfeature hts => ?nm⟩
  case ud =>
    rw [← or_assoc (a := s.env.xcr0.getLsbD 1 = false), ← State.avxEnabled_eq_false_iff] at hud
    exact exec_of_controlCheck ((hcheck e s).trans (State.checkVex_ud hud))
  case nm =>
    have hnm := State.checkVex_nm hsave (State.avxEnabled_iff.2 ⟨h1, h2⟩) hts
    rw [← hfeature, ← hcheck e s] at hnm
    exact exec_of_controlCheck hnm

/-- Settles O41. -/
theorem vporControlTraps : Obligations.VporControlTraps :=
  ⟨vexTraps_of_controlCheck fun _ _ => rfl, vexTraps_of_controlCheck fun _ _ => rfl⟩

theorem EvexRow.controlCheck_eq {es vl : Nat} {mk : Evex → Instr} (row : EvexRow es vl mk) (e : Evex) (s : State) :
    controlCheck (mk e) s = s.checkEvex vl e := by
  cases row <;> rfl

theorem evexTraps_of_row {es vl : Nat} {mk : Evex → Instr} (row : EvexRow es vl mk) : evexTraps vl mk := by
  intro e s
  refine ⟨fun hud => ?ud, fun hsave hxcr0 hf hvl hmask hts => ?nm⟩
  case ud =>
    rw [← or_assoc (a := s.env.hasAVX512F = false), ← State.avx512Enabled_eq_false_iff,
      ← State.evexFeature_eq_false_iff, ← Evex.zeroNoMask_iff] at hud
    exact exec_of_controlCheck ((row.controlCheck_eq e s).trans (State.checkEvex_ud hud))
  case nm =>
    have hnm := State.checkEvex_nm hsave (State.avx512Enabled_iff_forall.2 hxcr0)
      ((State.evexFeature_iff vl).2 ⟨hf, hvl⟩) ((Evex.zeroNoMask_eq_false_iff e).2 hmask) hts
    exact exec_of_controlCheck ((row.controlCheck_eq e s).trans hnm)

/-- Settles O42. -/
theorem evexControlTraps : Obligations.EvexControlTraps :=
  ⟨evexTraps_of_row .vpordXmm, evexTraps_of_row .vpordYmm, evexTraps_of_row .vpordZmm,
    evexTraps_of_row .vporqXmm, evexTraps_of_row .vporqYmm, evexTraps_of_row .vporqZmm⟩

/-! ### Feature flags -/

/-- A missing feature flag of the row is one of the #UD conditions of its check (R153). -/
theorem controlCheck_of_featureFlags {i : Instr} {s : State} (h : featureFlags s.env i = false) :
    controlCheck i s = some .ud := by
  cases i with
  | porMm e => exact if_pos (.inr h)
  | porXmm e => exact if_pos (.inr (.inr h))
  | vporXmm e | vporYmm e => exact State.checkVex_ud (.inr (.inr h))
  | vpordZmm e | vporqZmm e => exact State.checkEvex_of_no_feature (.inl h)
  | _ e =>
    have hflags : s.env.hasAVX512VL = false ∨ s.env.hasAVX512F = false := Bool.and_eq_false_iff.1 h
    exact State.checkEvex_of_no_feature (hflags.symm.imp_right fun hvl => ⟨by decide, hvl⟩)

/-- Settles O38. -/
theorem featureFlagAbsentIsUd : Obligations.FeatureFlagAbsentIsUd := by
  refine ⟨fun i s h => exec_of_controlCheck (controlCheck_of_featureFlags h), fun i => ?_⟩
  cases i <;> rfl

/-! ### The privilege level -/

/-- Settles O37: no check reads CPL, a register source is the same at every CPL, and no write depends on it. -/
theorem registerFormsIgnorePrivilege : Obligations.RegisterFormsIgnorePrivilege := by
  intro i s c hreg
  obtain ⟨r, hr⟩ := Rm.eq_reg_of_not_isMem hreg
  cases i with
  | porMm e =>
    refine runForm_match rfl rfl ?_ fun _ => rfl
    rw [Legacy.mmSource_reg hr, Legacy.mmSource_reg hr]
    rfl
  | porXmm e =>
    refine runForm_match rfl rfl ?_ fun _ => rfl
    rw [Legacy.xmmSource_reg hr, Legacy.xmmSource_reg hr]
    rfl
  | vporXmm e | vporYmm e =>
    refine runForm_match rfl rfl ?_ fun _ => rfl
    rw [Vex.source_reg hr, Vex.source_reg hr]
    rfl
  | _ e => exact runForm_match rfl rfl (Evex.source_withCpl hr _ _ s c) fun _ => rfl

end Machine

end Sys2Proof
end

section
/-! Every step moves forward in the program text by the bytes it has decoded, so every run stops (R90, R186). -/

namespace Sys2Proof.Machine

open Claims

/-! ### The bytes of one instruction -/

theorem three_le_len {m : Mode} {i : Instr} (h : WellFormed m i) : 3 ≤ i.len := by
  have hrow : 3 ≤ shortest i := by cases i <;> simp [shortest]
  obtain ⟨-, hmin, -⟩ := encodingLengthBounds m i h
  exact hrow.trans hmin

theorem len_le_of_decode {m : Mode} {bs : List Byte} {i : Instr} (h : decode m bs = .instr i) :
    i.len ≤ bs.length := by
  obtain ⟨rest, rfl⟩ := decode_instr_bytes h
  rw [List.length_append, length_encode]
  exact Nat.le_add_right ..

/-! ### One step -/

theorem step_next_text {s t : State} (h : step s = .next t) : t.text = s.text := by
  obtain ⟨-, -, -, -, -, htext⟩ := stepKeepsParameters s t h
  exact htext

/-- All bytes of the instruction that a completed step has run stand in the text. -/
theorem step_next_fits {s t : State} (h : step s = .next t) :
    ∃ i : Instr, 3 ≤ i.len ∧ s.pc.toNat + i.len ≤ s.text.base.toNat + s.text.bytes.length ∧ AdvancedBy i.len s t := by
  obtain ⟨i, hdecode, hexec, hbase, hend⟩ := step_next h
  have hlen := len_le_of_decode hdecode
  rw [List.length_drop] at hlen
  exact ⟨i, three_le_len (decode_wf hdecode), by omega, exec_next_advancedBy hexec⟩

/-- Settles O15: the text ends below the end of the address space, so the advance of `pc` does not wrap. -/
theorem stepStaysInText : Obligations.StepStaysInText := by
  rintro s t ⟨hbase, -, hspace⟩ h
  obtain ⟨i, hmin, hfits, hadv⟩ := step_next_fits h
  have hpc : t.pc.toNat = s.pc.toNat + i.len := hadv.trans (Nat.mod_eq_of_lt (hfits.trans_lt hspace))
  have hmode : t.mode = s.mode := (stepKeepsParameters s t h).mode
  rw [WithinText, step_next_text h, hmode, hpc]
  exact ⟨⟨hbase.trans (Nat.le_add_right ..), hfits, hspace⟩, Nat.add_le_add_left hmin _⟩

/-! ### Runs -/

/-- A run that starts in the text stays in it, and each of its steps moves at least 3 bytes forward. -/
theorem run_next_withinText {n : Nat} {s t : State} (hs : WithinText s) (h : Host.Core.run core n s = .next t) :
    WithinText t ∧ s.pc.toNat + 3 * n ≤ t.pc.toNat := by
  induction n generalizing s with
  | zero =>
    cases h
    exact ⟨hs, Nat.le_refl _⟩
  | succ n ih =>
    obtain ⟨s', hstep, hrun⟩ := run_next_succ core h
    obtain ⟨hs', hforward⟩ := stepStaysInText s s' hs hstep
    obtain ⟨ht, hrest⟩ := ih hs' hrun
    exact ⟨ht, by omega⟩

/-- Settles O19: `n + 1` steps, `n` the length of the text, would move `pc` past the end of a text that no step changes. -/
theorem everyRunStops : Obligations.EveryRunStops := by
  intro s t hs h
  obtain ⟨⟨-, -, -, -, -, htext⟩, -⟩ := runLeavesReadOnlyState _ s t h
  obtain ⟨⟨-, hend, -⟩, hforward⟩ := run_next_withinText hs h
  obtain ⟨hbase, -, -⟩ := hs
  rw [htext] at hend
  omega

/-- Settles O16. -/
theorem resetIsInText : Obligations.ResetIsInText :=
  ⟨Nat.le_refl _, Nat.le_refl _, by decide⟩

end Sys2Proof.Machine
end
